-- ==== Sys2Proof/Word.lean ====
section
/-! DEFINITION. The word types of the machine and their plainest arithmetic (R6, R9, R23). -/

namespace Sys2Proof

/-- One byte of memory. -/
abbrev Byte := BitVec 8
/-- A 16-bit element. -/
abbrev W16 := BitVec 16
/-- A 32-bit vector element. -/
abbrev W32 := BitVec 32
/-- A scalar register, a mask of 64 lanes, an address. -/
abbrev W64 := BitVec 64
/-- A bundle of code (R65). -/
abbrev W256 := BitVec 256
/-- A slot encoding (R67). -/
abbrev W60 := BitVec 60
/-- The six arithmetic flags of Table 1.4: NV, DZ, OF, UF, NX, GUF from bit 0 up. -/
abbrev AFlags := BitVec 6
/-- One bit for each of the 64 lanes of a wave. -/
abbrev Lanes := BitVec 64

/-- Bits lo to lo + w - 1 of a number, as a number. -/
def bitsNat (x lo w : Nat) : Nat := (x / 2 ^ lo) % 2 ^ w

end Sys2Proof
end

