-- ==== Sys2Proof/Syntax.lean ====
section
/-! DEFINITION. The abstract syntax: operand forms and the ONE inductive of instructions and events,
one constructor for each row of the opcode table (R65 to R85, spec/95). -/

namespace Sys2Proof

/-- An operand code of R74, Table 3.9. The map to 8-bit codes is a bijection; `x n` is code 0xE0 + n,
of which 0 to 6 are the special operands of Table 2.3 and the rest are reserved (R49). -/
inductive Opnd where
  | v (n : BitVec 7)
  | s (n : BitVec 6)
  | fv (k : BitVec 3)
  | fm (k : BitVec 3)
  | q (n : BitVec 4)
  | x (n : BitVec 5)
  deriving DecidableEq, Repr

/-- A V-slot source operand with its last-read mark (R55). -/
structure Src where
  op : Opnd
  last : Bool
  deriving DecidableEq, Repr

/-- A slot predicate: negate bit and predicate index (R45). -/
structure Pred where
  neg : Bool
  idx : BitVec 3
  deriving DecidableEq, Repr

/-- Rounding modes of R24. -/
inductive RMode where
  | rn | rz | rd | ru | sr
  deriving DecidableEq, Repr

/-- The IEEE-style float types (Table 1.2). -/
inductive FTy where
  | f32 | f16 | bf16
  deriving DecidableEq, Repr

/-- The integer types (Table 1.1, Table 3.7). -/
inductive ITy where
  | i32 | n32 | i64 | n64 | i16 | n16 | i8 | n8
  deriving DecidableEq, Repr

/-- Either kind of type, for the lane reductions of Table 4.1. -/
inductive RTy where
  | f (t : FTy)
  | i (t : ITy)
  deriving DecidableEq, Repr

/-- The binary8 variants of Table 1.1. -/
inductive PVar where
  | signed | extended | unsigned
  deriving DecidableEq, Repr

/-- A float format of a conversion: IEEE-style, or binary8 of a variant and precision (R15). -/
inductive FFmt where
  | ieee (t : FTy)
  | p3109 (k : PVar) (p : BitVec 3)
  deriving DecidableEq, Repr

/-- FCMP conditions of Table 4.4. -/
inductive FCond where
  | eq | ne | lt | le | gt | ge | ord | un
  deriving DecidableEq, Repr

/-- ICMP conditions of Table 4.4. -/
inductive ICond where
  | eq | ne | lt | le | gt | ge
  deriving DecidableEq, Repr

/-- The clause-flag select of R71. -/
inductive FSel where
  | none | a | b
  deriving DecidableEq, Repr

/-- Access sizes of Table 3.8. -/
inductive Size where
  | w8 | w16 | w32 | w64
  deriving DecidableEq, Repr

/-- Address spaces of Table 3.8: scratchpad, global, constant, cistern, staging. -/
inductive Space where
  | s | g | c | h | l
  deriving DecidableEq, Repr

/-- Cache operators of Table 3.8. -/
inductive CacheOp where
  | cd | cg | cs | cn
  deriving DecidableEq, Repr

/-- Element types of atomics (R70). -/
inductive ATy where
  | i32 | n32 | i64 | n64 | f32
  deriving DecidableEq, Repr

/-- Orderings of atomics (R165) and kinds of fences (R171). -/
inductive Ord where
  | relaxed | acq | rel | ar
  deriving DecidableEq, Repr

/-- Reductions of LDSET (R70). -/
inductive SetOp where
  | addF32 | addBf16 | minF32 | maxF32 | addI32 | and | or | xor
  deriving DecidableEq, Repr

/-- Scopes of FENCE (R171). -/
inductive Scope where
  | core | clu | die | pkg | sys
  deriving DecidableEq, Repr

/-- Lane reduction kinds and operations of Table 4.7. -/
inductive RedKind where
  | row | col | all
  deriving DecidableEq, Repr

inductive RedOp where
  | add | min | max | or
  deriving DecidableEq, Repr

/-- BRC conditions of Table 5.2 with their operand: a scalar or a predicate number. -/
inductive BrCond where
  | nz (s : BitVec 6) | z (s : BitVec 6) | neg (s : BitVec 6) | nneg (s : BitVec 6)
  | any (p : BitVec 3) | all (p : BitVec 3) | none (p : BitVec 3)
  deriving DecidableEq, Repr

/-- A V-slot operation with one source (Table 3.2). -/
structure Un where
  p : Pred
  d : Opnd
  a : Src
  deriving DecidableEq, Repr

/-- Two sources. -/
structure Bin where
  p : Pred
  d : Opnd
  a : Src
  b : Src
  deriving DecidableEq, Repr

/-- Three sources. -/
structure Tern where
  p : Pred
  d : Opnd
  a : Src
  b : Src
  c : Src
  deriving DecidableEq, Repr

/-- Two sources and a predicate number as destination (R69). -/
structure CmpOp where
  p : Pred
  pd : BitVec 3
  a : Src
  b : Src
  deriving DecidableEq, Repr

/-- A load or store of the M slot (Table 3.4). `last` marks DATA as a source. -/
structure Mem where
  p : Pred
  data : Opnd
  last : Bool
  base : Opnd
  ofs : BitVec 16
  size : Size
  space : Space
  fsel : FSel
  cop : CacheOp
  deriving DecidableEq, Repr

/-- An atomic or CAS: ORD and OFS14 stand in the OFS field (R165). -/
structure Atom where
  p : Pred
  data : Opnd
  base : Opnd
  ord : Ord
  ofs : BitVec 14
  space : Space
  fsel : FSel
  ty : ATy
  deriving DecidableEq, Repr

/-- WAITA (R168); `tmo` is the timeout code of R70. -/
structure Waita where
  p : Pred
  data : Opnd
  base : BitVec 6
  ofs : BitVec 16
  wide : Bool
  space : Space
  fsel : FSel
  tmo : BitVec 3
  deriving DecidableEq, Repr

/-- LDSET (R249). -/
structure Ldset where
  p : Pred
  data : Opnd
  base : BitVec 6
  set : BitVec 8
  off : BitVec 8
  fsel : FSel
  op : SetOp
  deriving DecidableEq, Repr

/-- SEND and RECV (R379); `sp` is true for scratchpad. -/
structure Msg where
  p : Pred
  data : Opnd
  base : BitVec 6
  ofs : BitVec 16
  sp : Bool
  fsel : FSel
  deriving DecidableEq, Repr

/-- The consumed tags of an X-slot operation, filled in order (R72). -/
inductive CTags where
  | t0
  | t1 (a : BitVec 6)
  | t2 (a b : BitVec 6)
  | t3 (a b c : BitVec 6)
  deriving DecidableEq, Repr

/-- An X-slot operation (Table 3.5). -/
structure XOp where
  p : Pred
  dbase : BitVec 6
  ptag : BitVec 6
  ct : CTags
  deriving DecidableEq, Repr

/-- What a party outside the core reads or writes in device or cistern memory (R368, R369). -/
structure HostAcc where
  part : Nat
  write : Bool
  addr : Nat
  len : Nat
  data : List Byte
  deriving DecidableEq, Repr

/-- One access of a UPLI request: its offset from the request's address, its length, and what it writes (R375). -/
structure UpliPart where
  ofs : Nat
  len : Nat
  data : List Byte
  deriving DecidableEq, Repr

/-- A UPLI request of a peer package, of one or more accesses in one 256-byte range (R373, R375, R377): kind 0 is a read, 1 a write, 2 add,
3 and 4 signed min and max, 5 and 6 unsigned, 7 swap, 8 compare-swap with the comparand first. -/
structure PeerReq where
  src : Nat
  kind : Nat
  addr : Nat
  epoch : Nat
  parts : List UpliPart
  deriving DecidableEq, Repr

/-- What the driver asks for when it allocates a partition (R325, R348). -/
structure AllocReq where
  slot : Nat
  islands : List Nat
  wins : List (Nat × Nat)
  cisBase : Nat
  cisLen : Nat
  acc : Nat
  staging : List Nat
  peers : List Nat
  cmdCore : Nat
  ring : Nat
  deriving DecidableEq, Repr

/-- What the driver supplies when it creates a context (R327). -/
structure CtxReq where
  part : Nat
  ctx : Nat
  entry : W64
  saveBase : W64
  restore : Bool := false
  bey : Bool := false
  deriving DecidableEq, Repr

/-- What the boot and management firmware and the training of links find at a reset (R355 to R357). -/
structure BootIn where
  firmwareOk : Bool
  versions : List Nat
  retired : List Nat
  linksUp : List Nat
  hingeUp : Bool
  controlStore : Bool
  hashes : List Nat
  eyes : List Nat
  deriving DecidableEq, Repr

/-- A result that arrives: its number, and the lanes whose scratchpad data has an uncorrectable error (R51, R161). -/
structure Landing where
  id : Nat
  err : Lanes
  deriving DecidableEq, Repr

/-- A read of a WAITA: the operation, and whether its data has an uncorrectable error (R161, R168). -/
structure WaitRead where
  id : Nat
  err : Bool
  deriving DecidableEq, Repr

/-- What the hour's prediction finds: unit, kind, confidence and days; each cluster's drift and new correctable errors; the rates of the
HBM pseudo-channels (R353, R354). -/
structure Wear where
  found : List Nat
  drifts : List Nat
  errs : List Nat
  hbm : List Nat
  deriving DecidableEq, Repr

/-- A control store image: its words, and whether its signature holds (R332). -/
structure StoreImage where
  words : List Nat
  signed : Bool
  deriving DecidableEq, Repr

/-- An uncorrectable error in a cluster's barrier unit or set table, or in its loop sequencer (R259). -/
structure UnitError where
  cluster : Nat
  seq : Bool
  deriving DecidableEq, Repr

/-- What leaves a cache or a TLB in a replacement (R156, R280, R293). -/
inductive Victim where
  | l1 (core sector : Nat)
  | l2 (sector : Nat)
  | rdc (sector : Nat)
  | utlb (core page : Nat)
  | ctlb (cluster page : Nat)
  deriving DecidableEq, Repr

/-- The ONE inductive of instructions: one constructor for each row of the opcode table. The slot operations
come first, by slot; the events of the machine and of its surroundings follow (spec/95). Arguments of an
event name the unit it concerns and carry what a party outside the package supplies. -/
inductive Instr where
  | nop
  -- V slot
  | fadd (o : Bin) (t : FTy) (r : RMode) (sat : Bool)
  | fsub (o : Bin) (t : FTy) (r : RMode) (sat : Bool)
  | fmul (o : Bin) (t : FTy) (r : RMode) (sat : Bool)
  | fma (o : Tern) (t : FTy) (r : RMode) (sat : Bool)
  | fms (o : Tern) (t : FTy) (r : RMode) (sat : Bool)
  | fnma (o : Tern) (t : FTy) (r : RMode) (sat : Bool)
  | fmin (o : Bin) (t : FTy)
  | fmax (o : Bin) (t : FTy)
  | fcmp (o : CmpOp) (t : FTy) (c : FCond)
  | fcls (o : Un) (t : FTy)
  | frnd (o : Un) (t : FTy) (r : RMode)
  | fcvt (o : Un) (src dst : FFmt) (r : RMode) (sat : Bool)
  | fdot2 (o : Tern) (bf : Bool) (r : RMode) (sat : Bool)
  | fscl (o : Bin) (t : FTy) (r : RMode) (sat : Bool)
  | afcp (o : Bin)
  | frcp (o : Un) (t : FTy) (r : RMode)
  | frsq (o : Un) (t : FTy) (r : RMode)
  | fsqrt (o : Un) (t : FTy) (r : RMode)
  | fex2 (o : Un) (t : FTy) (r : RMode)
  | flg2 (o : Un) (t : FTy) (r : RMode)
  | fsin (o : Un) (t : FTy) (r : RMode)
  | fcos (o : Un) (t : FTy) (r : RMode)
  | ftnh (o : Un) (t : FTy) (r : RMode)
  | fdiv (o : Bin) (t : FTy) (r : RMode) (f : FSel)
  | iadd (o : Bin) (t : ITy) (sat : Bool)
  | isub (o : Bin) (t : ITy) (sat : Bool)
  | iadc (o : Tern) (wide : Bool) (co : Bool)
  | imul (o : Bin) (t : ITy) (sat : Bool)
  | imulh (o : Bin) (t : ITy)
  | imad (o : Tern) (t : ITy) (sat : Bool)
  | imin (o : Bin) (t : ITy)
  | imax (o : Bin) (t : ITy)
  | iabs (o : Un) (t : ITy) (sat : Bool)
  | icmp (o : CmpOp) (t : ITy) (c : ICond)
  | icvt (o : Un) (src dst : ITy) (sat : Bool)
  | ftoi (o : Un) (src : FFmt) (dst : ITy) (r : RMode)
  | itof (o : Un) (src : ITy) (dst : FFmt) (r : RMode) (sat : Bool)
  | and (o : Bin) (t : ITy)
  | or (o : Bin) (t : ITy)
  | xor (o : Bin) (t : ITy)
  | andn (o : Bin) (t : ITy)
  | shl (o : Bin) (t : ITy)
  | shr (o : Bin) (t : ITy)
  | sar (o : Bin) (t : ITy)
  | rotl (o : Bin) (t : ITy)
  | popc (o : Un) (t : ITy)
  | clz (o : Un) (t : ITy)
  | brev (o : Un) (t : ITy)
  | bfe (o : Tern) (t : ITy)
  | bfi (o : Tern) (wide : Bool)
  | prmb (o : Tern)
  | mov (o : Un) (wide : Bool)
  | sel (o : Bin) (pc : BitVec 3) (wide : Bool)
  | shuf (o : Bin) (wide : Bool)
  | lbrd (o : Bin) (wide : Bool)
  | rowb (o : Bin) (wide : Bool)
  | colb (o : Bin) (wide : Bool)
  | trns (o : Un) (wide : Bool)
  | lred (o : Un) (t : RTy) (k : RedKind) (op : RedOp) (r : RMode)
  | lscn (o : Un) (t : RTy) (excl : Bool) (op : RedOp) (r : RMode)
  | plog (p : Pred) (pd pa pb : BitVec 3) (tt : BitVec 4)
  | pmovTp (p : Pred) (pd : BitVec 3) (s : BitVec 6)
  | pmovFp (p : Pred) (sd : BitVec 6) (pa : BitVec 3)
  | pcnt (p : Pred) (d : Opnd) (pa : BitVec 3)
  | pffs (p : Pred) (d : Opnd) (pa : BitVec 3)
  | rand (p : Pred) (d : Opnd)
  | movi (p : Pred) (d : Opnd) (imm : W32) (sx : Bool)
  | movh (p : Pred) (d : Opnd) (imm : W32)
  -- M slot
  | ld (o : Mem)
  | ldX (o : Mem)
  | st (o : Mem)
  | stX (o : Mem)
  | ldb (o : Mem)
  | stb (o : Mem)
  | ldt (o : Mem)
  | stt (o : Mem)
  | ldset (o : Ldset)
  | atomAdd (o : Atom)
  | atomMin (o : Atom)
  | atomMax (o : Atom)
  | atomAnd (o : Atom)
  | atomOr (o : Atom)
  | atomXor (o : Atom)
  | atomXchg (o : Atom)
  | atomIncw (o : Atom)
  | cas (o : Atom)
  | waita (o : Waita)
  | l1inv (p : Pred)
  | fence (p : Pred) (scope : Scope) (kind : Ord) (f : FSel)
  | drain (p : Pred) (dest : Option (BitVec 6)) (f : FSel)
  | drainRel (p : Pred) (dest : Option (BitVec 6)) (f : FSel)
  | flush (p : Pred) (base : BitVec 6) (ofs : BitVec 16) (staging : Bool) (f : FSel)
  | bpref (p : Pred) (tag : BitVec 6) (base : BitVec 6) (ofs : BitVec 16) (f : FSel)
  | pref (p : Pred) (n : Byte) (base : BitVec 6) (ofs : BitVec 16) (f : FSel)
  | send (o : Msg)
  | recv (o : Msg)
  -- X slot
  | cpy (o : XOp)
  | cpyq (o : XOp)
  | cpyo (o : XOp)
  | cpyr (o : XOp)
  | coll (o : XOp)
  | mxq (o : XOp)
  | mxrd (o : XOp) (n1 : BitVec 6)
  | mxwr (o : XOp) (n1 : BitVec 6)
  | mxz (o : XOp)
  | mxcrd (o : XOp)
  | mxcwr (o : XOp)
  -- C slot
  | br (p : Pred) (ofs : BitVec 24)
  | brc (p : Pred) (c : BrCond) (ofs : BitVec 24)
  | brv (p : Pred) (neg : Bool) (pc : BitVec 3) (ofs : BitVec 24) (join : BitVec 10)
  | jmpi (p : Pred) (s : BitVec 6)
  | call (p : Pred) (s : BitVec 6) (ofs : BitVec 24)
  | ret (p : Pred) (s : BitVec 6)
  | loop (s : BitVec 6) (ofs : BitVec 24) (sw : Bool) (rot : BitVec 5)
  | lmark (n1 : BitVec 5)
  | nest (s : BitVec 6) (si : BitVec 6) (d1 : BitVec 3) (n1 : BitVec 5)
  | clause (wait : BitVec 12) (fa fb : BitVec 4)
  | wflg (wait : BitVec 12)
  | twany (s : BitVec 6)
  | twall (s : BitVec 6)
  | tffr (sd s : BitVec 6)
  | tclr (p : Pred) (s : BitVec 6)
  | bar (id : BitVec 4)
  | gbar (id : BitVec 2)
  | sbar (n : Byte)
  | shape (p : Pred) (r : BitVec 3)
  | rngix (p : Pred) (s : BitVec 6)
  | gets (p : Pred) (sd : BitVec 6) (num : BitVec 12)
  | sets (p : Pred) (num : BitVec 12) (s : BitVec 6)
  | yield
  | exit (p : Pred)
  | launch (s : BitVec 6)
  | node (n : BitVec 24)
  | trap (p : Pred) (n : Byte)
  | bkpt (p : Pred)
  | eretReplay
  | eretResumeAtRpc
  | eretEndWave
  | macroOp (p : Pred) (n : BitVec 6) (fields : BitVec 46)
  -- events of a core
  | bundleIssue (core : Nat)
  | handlerStart (core wave : Nat)
  | resultArrival (core wave : Nat) (x : Landing)
  | carriedOpIssue (core : Nat)
  | translateBlock (part pc : Nat)
  | translationWalkReturn (core wave split : Nat)
  | variableLoadCompletion (core id : Nat) (err : Lanes)
  | fdivCompletion (core id : Nat)
  | atomicPerform (core id : Nat) (err : Lanes)
  | storePerform (core id : Nat) (err : Lanes)
  | fenceSatisfied (core id : Nat)
  | flushCompletion (core id : Nat)
  | bprefCompletion (core id : Nat)
  | prefCompletion (core id : Nat)
  | ldsetCompletion (core id : Nat) (err : Nat)
  | waitaWake (core : Nat) (x : WaitRead)
  | waitaTimeout (core : Nat) (x : WaitRead)
  | waitaDetReread (core : Nat) (x : WaitRead)
  -- events of a cluster's engines
  | taskStart (cluster array : Nat)
  | pairedWindowBoundary (cluster : Nat)
  | taskCommit (cluster array : Nat)
  | taskCompletion (cluster array : Nat)
  | taskFault (cluster array cause : Nat)
  | sideportStart (cluster id : Nat)
  | sideportCompletion (cluster id : Nat)
  | emptyEngineOpTagSet (cluster id : Nat)
  | copyStart (cluster id : Nat)
  | cpyqEntryPush (cluster id : Nat)
  | cpyoEntryPop (cluster id : Nat)
  | copyCompletion (cluster id : Nat)
  | copyFault (cluster id cause : Nat)
  | collCompletion (cluster id : Nat) (agree : Bool) (data : List Byte)
  | engineOrphan (cluster id : Nat)
  -- barriers and holds
  | barrierOpen (grid key : Nat)
  | detOpeningDeadline (cluster grid : Nat)
  | releaseGroup (cluster : Nat)
  | paddingOverrun (core id : Nat)
  | overrunHoldEnd (core : Nat)
  -- placement and contexts
  | blockPlacement (grid : Nat)
  | waveEnd (core wave : Nat)
  | gridEnd (grid : Nat)
  | quantumExpiry (core : Nat)
  | blockResume (core : Nat)
  | partitionAllocation (r : AllocReq)
  | scrubCompletion (part : Nat)
  | partitionFree (part : Nat)
  | forcedSave (part : Nat)
  | contextSwitch (part : Nat)
  -- power, energy, health, reset
  | thermalPoll (temps : List Nat)
  | powerAverageWindow (avg peak : Nat)
  | throttleStep
  | clockStepChange (cluster : Nat)
  | boostIntervalBoundary
  | energySpan (meters : List Nat)
  | energyCommit
  | signedReadingRequest (part nonce : Nat)
  | attestationRequest (nonce : Nat)
  | eolPrediction (w : Wear)
  | eyeMarginMeasurement (eyes : List Nat)
  | coldReset (b : BootIn)
  | warmReset (b : BootIn)
  | watchdogReset (b : BootIn)
  | controlStoreUpdate (version : Nat) (store : StoreImage)
  -- register writes
  | pwrctlWrite (v : W64)
  | boostWrite (cluster : Nat) (v : W64)
  | islopeWrite (cluster : Nat) (v : W64)
  | islflrWrite (island : Nat) (v : W64)
  | thrmWrite (n : Nat) (v : W64)
  | sstgWrite (j : Nat) (v : W64)
  | frrWrite (part which k : Nat) (v : W64)
  | ptrootWrite (part : Nat) (v : W64)
  | intraiseWrite (part : Nat) (v : W64)
  | rangeInvalidation (part : Nat) (v : W64)
  | invalidationCompletion (part : Nat)
  | imgloadWrite (part : Nat) (v : W64)
  | registerWrite (part num : Nat) (v : W64)
  -- hinge link and UALink
  | hostFlushCommand (addr len : Nat) (part : Nat)
  | companionDeviceAccess (a : HostAcc)
  | companionCisternAccess (a : HostAcc)
  | interruptAcknowledge (part n : Nat)
  | timeTransfer (ns : Nat)
  | timeInputLoss
  | remoteRequestArrival (r : PeerReq)
  | remoteWriteArrival (r : PeerReq)
  | drainMarkerArrival (src count : Nat)
  | markerAcknowledge (src : Nat)
  | messageArrival (src ch epoch : Nat) (data : List W32)
  | recvHoldTimeout (core id : Nat)
  | remoteTimeout (core id : Nat)
  | stationDown (n : Nat)
  | stationDegraded (n : Nat)
  | linkRetry (n : Nat)
  | hingeLinkFailure
  -- failures and the rest
  | queueRecordError (cluster : Nat) (task : Bool) (id : Nat)
  | copyUnitError (cluster unit : Nat)
  | barrierUnitError (e : UnitError)
  | powerLoss
  | lineReplacement (v : Victim)
  | drainCompletion (core id : Nat)
  | sendCompletion (core id : Nat)
  | recvCompletion (core id : Nat)
  | contextCreation (r : CtxReq)
  deriving DecidableEq, Repr

end Sys2Proof
end

