-- ==== Sys2Proof/Machine/Num.lean ====
section
/-! DEFINITION. Lane arithmetic: formats, exact values, rounding, summation orders, affine composition and
random bits (R15 to R40), and the special functions of R102. -/

namespace Sys2Proof

/-- An exact value: NaN (signalling or quiet), an infinity, or sign and magnitude n / d with d positive. -/
inductive XV where
  | nan (sig : Bool)
  | inf (neg : Bool)
  | fin (neg : Bool) (n d : Nat)
  deriving DecidableEq, Repr

/-- Flag masks of Table 1.4. -/
def flNV : AFlags := 1#6
def flDZ : AFlags := 2#6
def flOF : AFlags := 4#6
def flUF : AFlags := 8#6
def flNX : AFlags := 16#6
def flGUF : AFlags := 32#6

/-- A flag mask under a condition. -/
def flIf (c : Bool) (f : AFlags) : AFlags := if c then f else 0#6

namespace XV
def isNan : XV → Bool | nan _ => true | _ => false
def isSNan : XV → Bool | nan s => s | _ => false
def isInf : XV → Bool | inf _ => true | _ => false
def isZero : XV → Bool | fin _ n _ => n == 0 | _ => false
def neg? : XV → Bool | nan _ => false | inf s => s | fin s _ _ => s
def negate : XV → XV | nan s => nan s | inf s => inf (!s) | fin s n d => fin (!s) n d
/-- The value zero with a sign. -/
def zero (neg : Bool) : XV := fin neg 0 1
/-- An integer as an exact value; zero is positive. -/
def ofInt (i : Int) : XV := fin (decide (i < 0)) i.natAbs 1
/-- n / d times 2^e. -/
def scaled (neg : Bool) (n d : Nat) (e : Int) : XV :=
  if 0 ≤ e then fin neg (n * 2 ^ e.toNat) d else fin neg n (d * 2 ^ (-e).toNat)
/-- x times 2^e; NaN, infinities and zeros pass. -/
def scale2 (x : XV) (e : Int) : XV :=
  match x with
  | fin s n d => scaled s n d e
  | y => y
/-- Signed numerator over a common denominator. -/
def num : XV → Int | fin s n _ => if s then -(n : Int) else n | _ => 0
def den : XV → Nat | fin _ _ d => d | _ => 1
/-- x < y on the ordered values, with -0 equal to +0; false if either is NaN. -/
def lt (x y : XV) : Bool :=
  match x, y with
  | nan _, _ => false
  | _, nan _ => false
  | inf s, inf t => s && !t
  | inf s, fin _ _ _ => s
  | fin _ _ _, inf t => !t
  | fin _ _ _, fin _ _ _ => decide (x.num * (y.den : Int) < y.num * (x.den : Int))
/-- x = y on the ordered values, with -0 equal to +0; false if either is NaN. -/
def eqv (x y : XV) : Bool :=
  match x, y with
  | nan _, _ => false
  | _, nan _ => false
  | inf s, inf t => s == t
  | inf _, fin _ _ _ => false
  | fin _ _ _, inf _ => false
  | fin _ _ _, fin _ _ _ => decide (x.num * (y.den : Int) = y.num * (x.den : Int))
end XV

/-- The exact product, and whether it is the invalid 0 times infinity. -/
def mulX (x y : XV) : XV × Bool :=
  match x, y with
  | .nan _, _ => (.nan false, false)
  | _, .nan _ => (.nan false, false)
  | .inf s, .inf t => (.inf (s ^^ t), false)
  | .inf s, .fin t n _ => if n = 0 then (.nan false, true) else (.inf (s ^^ t), false)
  | .fin s n _, .inf t => if n = 0 then (.nan false, true) else (.inf (s ^^ t), false)
  | .fin s n d, .fin t m e => (.fin (s ^^ t) (n * m) (d * e), false)

/-- The exact sum of two values with the zero sign of R33, and whether it is an invalid infinity difference. -/
def addX (rd : Bool) (x y : XV) : XV × Bool :=
  match x, y with
  | .nan _, _ => (.nan false, false)
  | _, .nan _ => (.nan false, false)
  | .inf s, .inf t => if s = t then (.inf s, false) else (.nan false, true)
  | .inf s, .fin _ _ _ => (.inf s, false)
  | .fin _ _ _, .inf t => (.inf t, false)
  | .fin s _ d, .fin t _ e =>
    let a : Int := x.num * (e : Int) + y.num * (d : Int)
    if a = 0 then (.fin (if rd then s || t else s && t) 0 1, false)
    else (.fin (decide (a < 0)) a.natAbs (d * e), false)

/-- Parameters of a float format: precision, least exponent, largest finite magnitude counted in units of
the least spacing 2^(emin - p + 1). -/
structure FParam where
  p : Nat
  emin : Int
  maxU : Nat
  deriving DecidableEq, Repr

/-- Table 1.2. -/
def FTy.p : FTy → Nat | .f32 => 24 | .f16 => 11 | .bf16 => 8
def FTy.ebits : FTy → Nat | .f32 => 8 | .f16 => 5 | .bf16 => 8
def FTy.emin : FTy → Int | .f32 => -126 | .f16 => -14 | .bf16 => -126
def FTy.width : FTy → Nat | .f32 => 32 | .f16 => 16 | .bf16 => 16
/-- The canonical NaN of R17, Table 1.2. -/
def FTy.qnan : FTy → Nat | .f32 => 0x7FC00000 | .f16 => 0x7E00 | .bf16 => 0x7FC0
/-- The parameters with max = (2 - 2^(1-p)) 2^emax: exponent field all ones less one. Assumption 66. -/
def FTy.param (t : FTy) : FParam :=
  { p := FTy.p t, emin := FTy.emin t, maxU := (2 ^ FTy.p t - 1) * 2 ^ (2 ^ FTy.ebits t - 3) }

/-- The exact value of u units of least spacing. -/
def FParam.ofUnits (f : FParam) (neg : Bool) (u : Nat) : XV := XV.scaled neg u 1 (f.emin - (f.p : Int) + 1)

/-- Exponent and trailing field of u units of least spacing (R16, R18), joined above t = p - 1 trailing bits. -/
def FParam.code (f : FParam) (u : Nat) : Nat :=
  if u < 2 ^ (f.p - 1) then u
  else
    let e := Nat.log2 u - (f.p - 1)
    (e + 1) * 2 ^ (f.p - 1) + (u / 2 ^ e - 2 ^ (f.p - 1))

/-- The units of least spacing named by exponent and trailing field. -/
def FParam.units (f : FParam) (c : Nat) : Nat :=
  let e := c / 2 ^ (f.p - 1)
  let t := c % 2 ^ (f.p - 1)
  if e = 0 then t else (2 ^ (f.p - 1) + t) * 2 ^ (e - 1)

/-- floor(log2(n / d)) for positive n and d. -/
def log2Rat (n d : Nat) : Int :=
  let e : Int := (Nat.log2 n : Int) - (Nat.log2 d : Int)
  if 0 ≤ e then (if n < d * 2 ^ e.toNat then e - 1 else e)
  else (if n * 2 ^ (-e).toNat < d then e - 1 else e)

/-- The choice of RoundMag between k and k + 1 for the fraction r / d (R25). -/
def roundUp (mode : RMode) (neg : Bool) (k r d u : Nat) : Bool :=
  match mode with
  | .rn => decide (d < 2 * r) || (decide (2 * r = d) && decide (k % 2 = 1))
  | .rz => false
  | .ru => !neg
  | .rd => neg
  | .sr => decide (u * d < r * 2 ^ 32)

/-- RoundMag of R25 on a finite nonzero magnitude n / d: the result in units of least spacing, and its flags.
`u` is the draw of a stochastic rounding. Assumption 66. -/
def roundMag (f : FParam) (mode : RMode) (neg : Bool) (n d u : Nat) : Nat × AFlags :=
  let e := max (log2Rat n d) f.emin
  let sh := e - (f.p : Int) + 1
  let nn := if 0 ≤ sh then n else n * 2 ^ (-sh).toNat
  let dd := if 0 ≤ sh then d * 2 ^ sh.toNat else d
  let k := nn / dd
  let r := nn % dd
  let step := 2 ^ (e - f.emin).toNat
  if r = 0 then (k * step, 0#6)
  else
    let m := if roundUp mode neg k r dd u then (k + 1) * step else k * step
    (m, flNX ||| flIf (decide (m < 2 ^ (f.p - 1))) flUF)

/-- Whether an overflow goes to the largest finite value (R25). -/
def overflowToMax (mode : RMode) (neg sat : Bool) : Bool :=
  sat || match mode with
    | .rz => true
    | .ru => neg
    | .rd => !neg
    | _ => false

/-- The code of a signed IEEE-style value in units of least spacing. -/
def FTy.signed (t : FTy) (neg : Bool) (c : Nat) : Nat := (if neg then 2 ^ (FTy.width t - 1) else 0) + c
/-- The bits of an infinity. -/
def FTy.infBits (t : FTy) (neg : Bool) : Nat := t.signed neg ((2 ^ FTy.ebits t - 1) * 2 ^ (FTy.p t - 1))

/-- RoundFmt of R25 with the encoding of R16: the bits of the rounded value and its flags. -/
def roundFmt (t : FTy) (mode : RMode) (sat : Bool) (u : Nat) (x : XV) : Nat × AFlags :=
  match x with
  | .nan _ => (FTy.qnan t, 0#6)
  | .inf s => (t.infBits s, 0#6)
  | .fin s n d =>
    if n = 0 then (t.signed s 0, 0#6)
    else
      let f := FTy.param t
      let r := roundMag f mode s n d u
      if f.maxU < r.1 then
        (if overflowToMax mode s sat then t.signed s (f.code f.maxU) else t.infBits s, r.2 ||| flOF ||| flNX)
      else (t.signed s (f.code r.1), r.2)

/-- Reading the bits of an IEEE-style format (R16, R17). -/
def decF (t : FTy) (w : Nat) : XV :=
  let w := w % 2 ^ FTy.width t
  let s := decide (2 ^ (FTy.width t - 1) ≤ w)
  let c := w % 2 ^ (FTy.width t - 1)
  let e := c / 2 ^ (FTy.p t - 1)
  let m := c % 2 ^ (FTy.p t - 1)
  if e = 2 ^ FTy.ebits t - 1 then
    (if m = 0 then .inf s else .nan (decide (m < 2 ^ (FTy.p t - 2))))
  else (FTy.param t).ofUnits s ((FTy.param t).units c)

/-- Parameters of a binary8 variant of precision P (R18 to R20). -/
def p8Bias (k : PVar) (p : Nat) : Nat := match k with | .unsigned => 2 ^ (8 - p) | _ => 2 ^ (7 - p)
def p8MaxCode (k : PVar) : Nat := match k with | .signed => 0x7F | .extended => 0x7E | .unsigned => 0xFE
def p8Param (k : PVar) (p : Nat) : FParam :=
  let f : FParam := { p := p, emin := 1 - (p8Bias k p : Int), maxU := 0 }
  { f with maxU := f.units (p8MaxCode k) }
def p8Nan (k : PVar) : Nat := match k with | .unsigned => 0xFF | _ => 0x80
/-- The code of sign and magnitude; binary8 has no negative zero (R19). -/
def p8Signed (neg : Bool) (c : Nat) : Nat := if neg && c != 0 then c + 0x80 else c

/-- DecodeP3109 of R28. -/
def decP8 (k : PVar) (p : Nat) (c : Nat) : XV :=
  let c := c % 256
  if c = p8Nan k then .nan false
  else match k with
    | .unsigned => (p8Param k p).ofUnits false ((p8Param k p).units c)
    | _ =>
      if k = .extended ∧ c = 0x7F then .inf false
      else if k = .extended ∧ c = 0xFF then .inf true
      else (p8Param k p).ofUnits (decide (0x80 ≤ c)) ((p8Param k p).units (c % 128))

/-- EncodeP3109 of R27. -/
def encP8 (k : PVar) (p : Nat) (sat : Bool) (mode : RMode) (u : Nat) (x : XV) : Nat × AFlags :=
  let f := p8Param k p
  match x with
  | .nan _ => (p8Nan k, 0#6)
  | .inf s =>
    match k with
    | .unsigned =>
      if s then (if sat then (0x00, flNX) else (p8Nan k, flNV))
      else if sat then (p8MaxCode k, flOF ||| flNX) else (p8Nan k, flNV)
    | .extended => (if s then 0xFF else 0x7F, 0#6)
    | .signed => if sat then (p8Signed s (p8MaxCode k), flOF ||| flNX) else (p8Nan k, flNV)
  | .fin s n d =>
    if n = 0 then (0x00, 0#6)
    else
      let r := roundMag f mode s n d u
      if k = .unsigned ∧ s = true then
        if r.1 = 0 then (0x00, r.2)
        else if sat then (0x00, r.2 ||| flNX) else (p8Nan k, r.2 ||| flNV)
      else if f.maxU < r.1 then
        let fl := r.2 ||| flOF ||| flNX
        if overflowToMax mode s sat then (p8Signed s (p8MaxCode k), fl)
        else if k = .extended then (if s then 0xFF else 0x7F, fl)
        else (p8Nan k, fl ||| flNV)
      else (p8Signed s (f.code r.1), r.2)

/-- Reading under a conversion format (R91). -/
def decFmt (f : FFmt) (w : Nat) : XV :=
  match f with
  | .ieee t => decF t w
  | .p3109 k p => decP8 k p.toNat w

/-- Writing under a conversion format (R100). -/
def encFmt (f : FFmt) (mode : RMode) (sat : Bool) (u : Nat) (x : XV) : Nat × AFlags :=
  match f with
  | .ieee t => roundFmt t mode sat u x
  | .p3109 k p => encP8 k p.toNat sat mode u x

/-- Integer types (R23). -/
def ITy.width : ITy → Nat
  | .i32 => 32 | .n32 => 32 | .i64 => 64 | .n64 => 64 | .i16 => 16 | .n16 => 16 | .i8 => 8 | .n8 => 8
def ITy.isSigned : ITy → Bool | .i32 => true | .i64 => true | .i16 => true | .i8 => true | _ => false
def ITy.wide (t : ITy) : Bool := t == .i64 || t == .n64
def ITy.minV (t : ITy) : Int := if t.isSigned then -(2 ^ (ITy.width t - 1) : Int) else 0
def ITy.maxV (t : ITy) : Int := if t.isSigned then 2 ^ (ITy.width t - 1) - 1 else 2 ^ ITy.width t - 1
/-- Reading the low bits of a word under an integer type. -/
def ITy.dec (t : ITy) (w : Nat) : Int :=
  let x := w % 2 ^ ITy.width t
  if t.isSigned && decide (2 ^ (ITy.width t - 1) ≤ x) then (x : Int) - 2 ^ ITy.width t else x
/-- The value modulo 2^W, read back under the type. -/
def ITy.wrap (t : ITy) (i : Int) : Int := t.dec ((i % (2 ^ ITy.width t : Int)).toNat)
/-- Wrapping, or saturating with OF (R23). -/
def ITy.fit (t : ITy) (sat : Bool) (i : Int) : Int × AFlags :=
  if sat then
    if i < t.minV then (t.minV, flOF) else if t.maxV < i then (t.maxV, flOF) else (i, 0#6)
  else (t.wrap i, 0#6)

/-- ToInt of R29. -/
def toInt (t : ITy) (mode : RMode) (u : Nat) (x : XV) : Int × AFlags :=
  match x with
  | .nan _ => (0, flNV)
  | .inf s => (if s then t.minV else t.maxV, flNV)
  | .fin s n d =>
    let k := n / d
    let r := n % d
    let m := if r ≠ 0 ∧ roundUp mode s k r d u = true then k + 1 else k
    let i : Int := if s then -(m : Int) else m
    if i < t.minV then (t.minV, flNV) else if t.maxV < i then (t.maxV, flNV)
    else (i, flIf (decide (r ≠ 0)) flNX)

/-- Rounding to an integral value in the same format (R97). -/
def roundIntegral (t : FTy) (mode : RMode) (u : Nat) (x : XV) : Nat × AFlags :=
  match x with
  | .fin s n d =>
    if n = 0 then roundFmt t .rn false 0 x
    else
      let k := n / d
      let r := n % d
      if r = 0 then roundFmt t .rn false 0 x
      else
        let m := if roundUp mode s k r d u then k + 1 else k
        ((roundFmt t .rz true 0 (.fin s m 1)).1, flNX)
  | .nan sg => (FTy.qnan t, flIf sg flNV)
  | y => roundFmt t .rn false 0 y

/-- Table 4.3: x times y plus z, rounded once; `nv` sets NV for signalling inputs. -/
def fmaX (rd : Bool) (x y z : XV) : XV × AFlags :=
  let sg := flIf (x.isSNan || y.isSNan || z.isSNan) flNV
  let p := mulX x y
  if p.2 then (.nan false, sg ||| flNV)
  else if x.isNan || y.isNan || z.isNan then (.nan false, sg)
  else
    let s := addX rd p.1 z
    (s.1, sg ||| flIf s.2 flNV)

/-- x + y with the rules of Table 4.3. -/
def faddX (rd : Bool) (x y : XV) : XV × AFlags :=
  let sg := flIf (x.isSNan || y.isSNan) flNV
  let s := addX rd x y
  (s.1, sg ||| flIf s.2 flNV)

/-- x times y with the rules of Table 4.3. -/
def fmulX (x y : XV) : XV × AFlags :=
  let sg := flIf (x.isSNan || y.isSNan) flNV
  let p := mulX x y
  (p.1, sg ||| flIf p.2 flNV)

/-- Rounding a value and joining the flags found on the way. -/
def finish (t : FTy) (mode : RMode) (sat : Bool) (u : Nat) (x : XV × AFlags) : Nat × AFlags :=
  let r := roundFmt t mode sat u x.1
  (r.1, r.2 ||| x.2)

/-- The order of R32: -0 below +0. -/
def minmaxLess (x y : XV) : Bool := x.lt y || (x.eqv y && x.neg? && !y.neg?)

/-- Float minimum or maximum of R32 on bits. -/
def fminmax (t : FTy) (isMax : Bool) (a b : Nat) : Nat × AFlags :=
  let x := decF t a
  let y := decF t b
  if x.isNan || y.isNan then (FTy.qnan t, flIf (x.isSNan || y.isSNan) flNV)
  else
    let pickB := if isMax then minmaxLess x y else minmaxLess y x
    ((if pickB then b else a) % 2 ^ FTy.width t, 0#6)

/-- FCMP of R94. -/
def fcmpX (c : FCond) (x y : XV) : Bool × AFlags :=
  let un := x.isNan || y.isNan
  let sg := x.isSNan || y.isSNan
  match c with
  | .eq => (x.eqv y, flIf sg flNV)
  | .ne => (!(x.eqv y), flIf sg flNV)
  | .lt => (x.lt y, flIf un flNV)
  | .le => (x.lt y || x.eqv y, flIf un flNV)
  | .gt => (y.lt x, flIf un flNV)
  | .ge => (y.lt x || x.eqv y, flIf un flNV)
  | .ord => (!un, flIf sg flNV)
  | .un => (un, flIf sg flNV)

/-- FCLS of Table 4.5. -/
def fclsX (t : FTy) (x : XV) : Nat :=
  match x with
  | .nan true => 1
  | .nan false => 2
  | .inf true => 4
  | .inf false => 512
  | .fin s n d =>
    if n = 0 then (if s then 32 else 64)
    else if log2Rat n d < FTy.emin t then (if s then 16 else 128)
    else (if s then 8 else 256)

/-- Compose of R37 on FP32 bits: gain and offset with flags. Signalling inputs set NV (R101). -/
def compose (g2 o2 g1 o1 : Nat) : (Nat × Nat) × AFlags :=
  let G2 := decF .f32 g2
  let O2 := decF .f32 o2
  let G1 := decF .f32 g1
  let O1 := decF .f32 o1
  let gx := fmulX G2 G1
  let tiny := match gx.1 with
    | .fin _ n d => decide (n ≠ 0) && decide (n * 2 ^ 126 < d)
    | _ => false
  let g := if tiny then (FTy.signed .f32 (G2.neg? ^^ G1.neg?) 0, flGUF ||| flNX ||| gx.2)
           else finish .f32 .rn false 0 gx
  let o := finish .f32 .rn false 0 (fmaX false G2 O1 O2)
  ((g.1, o.1), g.2 ||| o.2)

/-- One level of the reduction tree of R35. -/
def pairUp {α : Type} (op : α → α → α) : List α → List α
  | a :: b :: r => op a b :: pairUp op r
  | l => l

/-- TreeReduce of R35 with as many levels as the fuel allows; 2^fuel items are enough. -/
def treeLevels {α : Type} (op : α → α → α) : Nat → List α → List α
  | 0, l => l
  | k + 1, l => match l with
    | _ :: _ :: _ => treeLevels op k (pairUp op l)
    | l => l

/-- TreeReduce of R35 over values with their collected flags; an empty list gives the identity. -/
def treeReduce (op : Nat → Nat → Nat × AFlags) (ident : Nat) (l : List (Nat × AFlags)) : Nat × AFlags :=
  match treeLevels (fun a b => let r := op a.1 b.1; (r.1, r.2 ||| a.2 ||| b.2)) (l.length + 1) l with
  | r :: _ => r
  | [] => (ident, 0#6)

/-- One round of Philox4x32 (R38). -/
def philoxRound (k0 k1 : W32) (c : W32 × W32 × W32 × W32) : W32 × W32 × W32 × W32 :=
  let pa : W64 := 0xD2511F53#64 * c.1.zeroExtend 64
  let pb : W64 := 0xCD9E8D57#64 * c.2.2.1.zeroExtend 64
  ((pb >>> 32).truncate 32 ^^^ c.2.1 ^^^ k0, pb.truncate 32, (pa >>> 32).truncate 32 ^^^ c.2.2.2 ^^^ k1, pa.truncate 32)

def philoxRounds : Nat → W32 → W32 → W32 × W32 × W32 × W32 → W32 × W32 × W32 × W32
  | 0, _, _, c => c
  | n + 1, k0, k1, c => philoxRounds n (k0 + 0x9E3779B9#32) (k1 + 0xBB67AE85#32) (philoxRound k0 k1 c)

/-- Philox of R38: ten rounds. -/
def philox (key : W64) (c0 c1 c2 c3 : W32) : W32 × W32 × W32 × W32 :=
  philoxRounds 10 (key.truncate 32) ((key >>> 32).truncate 32) (c0, c1, c2, c3)

/-- NextDraw(j) for lane L of index i under the wave's seed (R39). -/
def draw (seed : W64) (idx : BitVec 48) (lane : Nat) (j : Nat) : W32 :=
  let hi : W32 := ((idx >>> 32).truncate 32) ||| (BitVec.ofNat 32 lane <<< 16)
  let w := philox seed (idx.truncate 32) hi 0#32 0#32
  match j with
  | 0 => w.1
  | 1 => w.2.1
  | 2 => w.2.2.1
  | _ => w.2.2.2

/-- RNGSEED of a wave at its start (R138). -/
def waveSeed (launchSeed : W64) (block wave gang : Nat) : W64 :=
  let w := philox launchSeed (BitVec.ofNat 32 block) (BitVec.ofNat 32 wave) (BitVec.ofNat 32 gang) 0x5EED0001#32
  (w.2.1.zeroExtend 64 <<< 32) ||| w.1.zeroExtend 64

/-! ### Roots and transcendental functions (R102), evaluated far beyond the precision of any format
(assumption 9: DEDUCED). -/

/-- Bits of the integer square root, highest first. -/
def isqrtBits : Nat → Nat → Nat → Nat
  | 0, _, r => r
  | k + 1, n, r => if (r + 2 ^ k) * (r + 2 ^ k) ≤ n then isqrtBits k n (r + 2 ^ k) else isqrtBits k n r

def isqrt (n : Nat) : Nat := isqrtBits (Nat.log2 n / 2 + 1) n 0

/-- The square root of n / d as a rational that rounds as the exact root does: exact when the root is a
multiple of 2^-512, else between its neighbours at that spacing. -/
def sqrtX (n d : Nat) : Nat × Nat :=
  let t := n * 4 ^ 512
  let q := isqrt (t / d)
  if q * q * d = t then (q, 2 ^ 512) else (2 * q + 1, 2 ^ 513)

/-- Fixed-point scale of the series. -/
def fxBits : Nat := 768
def fxOne : Nat := 2 ^ 768

/-- The sum of q^-(2k+1) / (2k+1) from term k on, alternating or not, in fixed point. -/
def invSeries (alt : Bool) (q2 : Nat) : Nat → Nat → Nat → Int → Int
  | 0, _, _, acc => acc
  | f + 1, k, t, acc =>
    let c : Int := (t / (2 * k + 1) : Nat)
    invSeries alt q2 f (k + 1) (t / q2) (if alt && k % 2 == 1 then acc - c else acc + c)

/-- pi by Machin's formula, and ln 2 as twice the area tangent of 1/3. -/
def fxPi : Nat := (16 * invSeries true 25 200 0 (fxOne / 5) 0 - 4 * invSeries true 57121 80 0 (fxOne / 239) 0).toNat
def fxLn2 : Nat := (2 * invSeries false 9 260 0 (fxOne / 3) 0).toNat

/-- The exponential series at y below 1, from term t on. -/
def expSeries (y : Nat) : Nat → Nat → Nat → Nat → Nat
  | 0, _, _, acc => acc
  | f + 1, k, t, acc => expSeries y f (k + 1) (t * y / (fxOne * (k + 1))) (acc + t)

/-- 2^f for a fixed-point f below 1. -/
def fxExp2 (f : Nat) : Nat := expSeries (f * fxLn2 / fxOne) 200 0 fxOne 0

/-- The sine series at an angle up to a quarter turn. -/
def sinSeries (y2 : Nat) : Nat → Nat → Nat → Int → Int
  | 0, _, _, acc => acc
  | f + 1, k, t, acc =>
    sinSeries y2 f (k + 1) (t * y2 / (fxOne * ((2 * k + 2) * (2 * k + 3)))) (if k % 2 == 1 then acc - t else acc + t)

def fxSin (a : Nat) : Nat := (sinSeries (a * a / fxOne) 160 0 a 0).toNat

/-- log2 of a fixed-point ratio z = (m - 1) / (m + 1), m in [1, 2). -/
def areaSeries (z2 : Nat) : Nat → Nat → Nat → Nat → Nat
  | 0, _, _, acc => acc
  | f + 1, k, t, acc => areaSeries z2 f (k + 1) (t * z2 / fxOne) (acc + t / (2 * k + 1))

def fxLog2 (z : Nat) : Nat := 2 * areaSeries (z * z / fxOne) 260 0 z 0 * fxOne / fxLn2

/-- A fixed-point value as a rational that is no multiple of the scale, so that no rounding sees a tie. -/
def fxVal (neg : Bool) (v : Nat) : XV := .fin neg (2 * v + 1) (2 * fxOne)

/-- 2^x for a finite x. Arguments beyond 400 in size act as 400: every format has over- or underflowed there. -/
def exp2X (neg : Bool) (n d : Nat) : XV :=
  if 400 * d < n then XV.scaled false 1 1 (if neg then -400 else 400)
  else
    let k : Int := if neg then -(n / d : Nat) else (n / d : Nat)
    let r := n % d
    if r = 0 then XV.scaled false 1 1 k
    else if neg then (fxVal false (fxExp2 ((d - r) * fxOne / d))).scale2 (k - 1)
    else (fxVal false (fxExp2 (r * fxOne / d))).scale2 k

/-- log2 of a positive finite x. -/
def log2X (n d : Nat) : XV :=
  let e := log2Rat n d
  let m := if 0 ≤ e then (n, d * 2 ^ e.toNat) else (n * 2 ^ (-e).toNat, d)
  if m.1 = m.2 then XV.ofInt e
  else
    let f : Int := (fxLog2 ((m.1 - m.2) * fxOne / (m.1 + m.2)) : Nat)
    let v : Int := e * (fxOne : Int) + f
    fxVal (decide (v < 0)) (if v < 0 then (-v).toNat - 1 else v.toNat)

/-- sin(pi r) for r = n / d in [0, 1]; exact at the multiples of one half. -/
def sinPiUnit (neg : Bool) (n d : Nat) : XV :=
  if n = 0 ∨ n = d then .fin neg 0 1
  else if 2 * n = d then .fin neg 1 1
  else
    let m := if d < 2 * n then d - n else n
    fxVal neg (fxSin (m * fxPi / d))

/-- sin(pi x): +0 or -0 by the sign of x at integers (R102). -/
def sinPiX (neg : Bool) (n d : Nat) : XV :=
  let m := n % (2 * d)
  if m % d = 0 then .fin neg 0 1
  else if d < m then sinPiUnit (!neg) (m - d) d else sinPiUnit neg m d

/-- cos(pi x): +0 halfway between integers (R102). -/
def cosPiX (n d : Nat) : XV :=
  let m := n % (2 * d)
  let m := if d < m then 2 * d - m else m
  if 2 * m = d then .fin false 0 1
  else if 2 * m < d then sinPiUnit false (d - 2 * m) (2 * d)
  else sinPiUnit true (2 * m - d) (2 * d)

/-- tanh of a finite nonzero magnitude: arguments above 200 act as 200, where every format sees 1 - epsilon. -/
def tanhX (neg : Bool) (n d : Nat) : XV :=
  let c := if 200 * d < n then (200, 1) else (n, d)
  let w := 2 * c.1 * fxOne * fxOne / (c.2 * fxLn2)
  let k := w / fxOne
  let f := w % fxOne
  let t := fxExp2 (fxOne - 1 - f) / 2 ^ (k + 1)
  fxVal neg ((fxOne - t) * fxOne / (fxOne + t))

/-- The eight special functions. -/
inductive SFun where
  | rcp | rsq | sqrt | ex2 | lg2 | sin | cos | tnh
  deriving DecidableEq, Repr

/-- f(x) with the special cases of Table 4.6: the exact value to be rounded and the flags raised on the way. -/
def specialX (f : SFun) (x : XV) : XV × AFlags :=
  match x with
  | .nan s => (.nan false, flIf s flNV)
  | .inf s =>
    match f with
    | .rcp => (.fin s 0 1, 0#6)
    | .rsq => if s then (.nan false, flNV) else (.fin false 0 1, 0#6)
    | .sqrt => if s then (.nan false, flNV) else (.inf false, 0#6)
    | .ex2 => if s then (.fin false 0 1, 0#6) else (.inf false, 0#6)
    | .lg2 => if s then (.nan false, flNV) else (.inf false, 0#6)
    | .sin => (.nan false, flNV)
    | .cos => (.nan false, flNV)
    | .tnh => (.fin s 1 1, 0#6)
  | .fin s n d =>
    if n = 0 then
      match f with
      | .rcp => (.inf s, flDZ)
      | .rsq => (.inf s, flDZ)
      | .sqrt => (x, 0#6)
      | .ex2 => (.fin false 1 1, 0#6)
      | .lg2 => (.inf true, flDZ)
      | .sin => (x, 0#6)
      | .cos => (.fin false 1 1, 0#6)
      | .tnh => (x, 0#6)
    else
      match f with
      | .rcp => (.fin s d n, 0#6)
      | .rsq => if s then (.nan false, flNV) else let q := sqrtX d n; (.fin false q.1 q.2, 0#6)
      | .sqrt => if s then (.nan false, flNV) else let q := sqrtX n d; (.fin false q.1 q.2, 0#6)
      | .ex2 => (exp2X s n d, 0#6)
      | .lg2 => if s then (.nan false, flNV) else (log2X n d, 0#6)
      | .sin => (sinPiX s n d, 0#6)
      | .cos => (cosPiX n d, 0#6)
      | .tnh => (tanhX s n d, 0#6)

/-- x / y of R103. -/
def fdivX (x y : XV) : XV × AFlags :=
  let sg := flIf (x.isSNan || y.isSNan) flNV
  match x, y with
  | .nan _, _ => (.nan false, sg)
  | _, .nan _ => (.nan false, sg)
  | .inf _, .inf _ => (.nan false, flNV)
  | .inf s, .fin t _ _ => (.inf (s ^^ t), 0#6)
  | .fin s _ _, .inf t => (.fin (s ^^ t) 0 1, 0#6)
  | .fin s n d, .fin t m e =>
    if m = 0 then (if n = 0 then (.nan false, flNV) else (.inf (s ^^ t), flDZ))
    else (.fin (s ^^ t) (n * e) (d * m), 0#6)

end Sys2Proof
end

