-- ==== Sys2Proof/WellFormed.lean ====
section
/-! DEFINITION. Which instructions are legal encodings, apart from what only the run knows (declared register
counts, queue bindings, trap mode): R67 to R77, R79, R86 to R122, R126, R158, R164 to R168, and Table 4.1. -/

namespace Sys2Proof

/-- The slots of a bundle (Table 3.1). -/
inductive Slot where
  | v | m | x | c
  deriving DecidableEq, Repr

/-- Latency classes of Table 4.2. -/
inductive VClass where
  | int | fp | xl | sfu | fsqrt | fdiv | rand
  deriving DecidableEq, Repr

/-- The register view of a V-slot operation: predicate, destination register (none when it is a predicate
number), whether the destination is a 64-bit pair, sources with the same mark, class, and whether it is one of
the cross-lane opcodes without a scalar form (R86). -/
structure VInfo where
  p : Pred
  dst : Option Opnd
  dwide : Bool
  srcs : List (Src × Bool)
  cls : VClass
  xl : Bool
  deriving DecidableEq, Repr

def vUn (o : Un) (wd ws : Bool) (c : VClass) : VInfo :=
  { p := o.p, dst := some o.d, dwide := wd, srcs := [(o.a, ws)], cls := c, xl := false }
def vBin (o : Bin) (w : Bool) (c : VClass) : VInfo :=
  { p := o.p, dst := some o.d, dwide := w, srcs := [(o.a, w), (o.b, w)], cls := c, xl := false }
def vTern (o : Tern) (w : Bool) (c : VClass) : VInfo :=
  { p := o.p, dst := some o.d, dwide := w, srcs := [(o.a, w), (o.b, w), (o.c, w)], cls := c, xl := false }
def vCmp (o : CmpOp) (w : Bool) (c : VClass) : VInfo :=
  { p := o.p, dst := none, dwide := false, srcs := [(o.a, w), (o.b, w)], cls := c, xl := false }
def vNo (p : Pred) (d : Option Opnd) (w : Bool) (c : VClass) : VInfo :=
  { p := p, dst := d, dwide := w, srcs := [], cls := c, xl := false }

/-- The register view of every V-slot operation (Tables 3.10, 3.11 and 4.1). The carry of R105, the counts of R112 and the index of
R116 are read as 64-bit operands under a 64-bit type, a width the rules leave open (DESIGN CHOICE, assumption 80). -/
def Instr.vinfo : Instr → Option VInfo
  | .fadd o _ _ _ => some (vBin o false .fp)
  | .fsub o _ _ _ => some (vBin o false .fp)
  | .fmul o _ _ _ => some (vBin o false .fp)
  | .fma o _ _ _ => some (vTern o false .fp)
  | .fms o _ _ _ => some (vTern o false .fp)
  | .fnma o _ _ _ => some (vTern o false .fp)
  | .fmin o _ => some (vBin o false .fp)
  | .fmax o _ => some (vBin o false .fp)
  | .fcmp o _ _ => some (vCmp o false .fp)
  | .fcls o _ => some (vUn o false false .fp)
  | .frnd o _ _ => some (vUn o false false .fp)
  | .fcvt o _ _ _ _ => some (vUn o false false .fp)
  | .fdot2 o _ _ _ => some (vTern o false .fp)
  | .fscl o _ _ _ => some (vBin o false .fp)
  | .afcp o => some (vBin o true .fp)
  | .frcp o _ _ => some (vUn o false false .sfu)
  | .frsq o _ _ => some (vUn o false false .sfu)
  | .fsqrt o _ _ => some (vUn o false false .fsqrt)
  | .fex2 o _ _ => some (vUn o false false .sfu)
  | .flg2 o _ _ => some (vUn o false false .sfu)
  | .fsin o _ _ => some (vUn o false false .sfu)
  | .fcos o _ _ => some (vUn o false false .sfu)
  | .ftnh o _ _ => some (vUn o false false .sfu)
  | .fdiv o _ _ _ => some (vBin o false .fdiv)
  | .iadd o t _ => some (vBin o t.wide .int)
  | .isub o t _ => some (vBin o t.wide .int)
  | .iadc o w _ => some (vTern o w .int)
  | .imul o t _ => some (vBin o t.wide .int)
  | .imulh o t => some (vBin o t.wide .int)
  | .imad o t _ => some (vTern o t.wide .int)
  | .imin o t => some (vBin o t.wide .int)
  | .imax o t => some (vBin o t.wide .int)
  | .iabs o t _ => some (vUn o t.wide t.wide .int)
  | .icmp o t _ => some (vCmp o t.wide .int)
  | .icvt o s d _ => some (vUn o d.wide s.wide .int)
  | .ftoi o _ d _ => some (vUn o d.wide false .fp)
  | .itof o s _ _ _ => some (vUn o false s.wide .fp)
  | .and o t => some (vBin o t.wide .int)
  | .or o t => some (vBin o t.wide .int)
  | .xor o t => some (vBin o t.wide .int)
  | .andn o t => some (vBin o t.wide .int)
  | .shl o t => some (vBin o t.wide .int)
  | .shr o t => some (vBin o t.wide .int)
  | .sar o t => some (vBin o t.wide .int)
  | .rotl o t => some (vBin o t.wide .int)
  | .popc o t => some (vUn o t.wide t.wide .int)
  | .clz o t => some (vUn o t.wide t.wide .int)
  | .brev o t => some (vUn o t.wide t.wide .int)
  | .bfe o t => some (vTern o t.wide .int)
  | .bfi o w => some (vTern o w .int)
  | .prmb o => some (vTern o false .int)
  | .mov o w => some (vUn o w w .int)
  | .sel o _ w => some (vBin o w .int)
  | .shuf o w => some { vBin o w .xl with xl := true }
  | .lbrd o w => some { vBin o w .xl with xl := true }
  | .rowb o w => some { vBin o w .xl with xl := true }
  | .colb o w => some { vBin o w .xl with xl := true }
  | .trns o w => some { vUn o w w .xl with xl := true }
  | .lred o _ _ _ _ => some { vUn o false false .xl with xl := true }
  | .lscn o _ _ _ _ => some { vUn o false false .xl with xl := true }
  | .plog p _ _ _ _ => some (vNo p none false .int)
  | .pmovTp p _ s => some { vNo p none false .int with srcs := [(⟨.s s, false⟩, true)] }
  | .pmovFp p sd _ => some (vNo p (some (.s sd)) true .int)
  | .pcnt p d _ => some (vNo p (some d) false .int)
  | .pffs p d _ => some (vNo p (some d) false .int)
  | .rand p d => some (vNo p (some d) false .rand)
  | .movi p d _ _ => some (vNo p (some d) false .int)
  | .movh p d _ => some (vNo p (some d) true .int)
  | _ => none

def Opnd.isV : Opnd → Bool | .v _ => true | _ => false
def Opnd.isS : Opnd → Bool | .s _ => true | _ => false
def Opnd.isLatch : Opnd → Bool | .fv _ => true | .fm _ => true | _ => false
def Opnd.isQ : Opnd → Bool | .q _ => true | _ => false
def Opnd.isX : Opnd → Bool | .x _ => true | _ => false
def Opnd.isZero (o : Opnd) : Bool := o == .x 0#5
/-- A vector register that may name a 64-bit value, or any other operand (R43). -/
def Opnd.evenOk : Opnd → Bool | .v n => n.toNat % 2 == 0 | _ => true

/-- Table 3.9 for a V3 source field; a 64-bit operand is no odd register and no queue (R43, R87). -/
def srcOk (s : Src) (wide : Bool) : Bool :=
  (match s.op with | .x n => decide (n.toNat ≤ 6) | _ => true) &&
  (!s.last || s.op.isLatch) && (!wide || (s.op.evenOk && !s.op.isQ))

/-- Table 3.9 for a destination field. -/
def dstOk (d : Opnd) (wide : Bool) : Bool :=
  (d.isV || d.isS || d.isQ || d.isZero) && (!wide || (d.evenOk && !d.isQ))

/-- R86: which V-slot operations run once as scalar operations. The format codes in SRCB and SRCC of FCVT, ICVT, FTOI and ITOF are no
operands and do not count among the sources (DESIGN CHOICE, assumption 103). -/
def VInfo.isScalar (i : VInfo) : Bool :=
  match i.dst with
  | none => false
  | some d => d.isS || (d.isZero && i.srcs.all (fun s => s.1.op.isS || s.1.op.isX))

/-- The queue codes an operation names as sources. -/
def VInfo.queues (i : VInfo) : List (BitVec 4) :=
  i.srcs.filterMap (fun s => match s.1.op with | .q n => some n | _ => none)

/-- R74, R55, R58, R86 on the operands of a V-slot operation. A cross-lane opcode with DST 0xE0 and no vector source is refused as one
with a scalar DST is: R86 makes it a scalar operation and gives it no scalar form (DESIGN CHOICE, assumption 81). -/
def VInfo.ok (i : VInfo) : Bool :=
  i.srcs.all (fun s => srcOk s.1 s.2) &&
  (match i.dst with | none => true | some d => dstOk d i.dwide) &&
  decide i.queues.Nodup &&
  (!i.isScalar || (!i.xl && i.srcs.all (fun s => !s.1.op.isV && !s.1.op.isQ)))

/-- The four integer types of Table 4.1 (codes 0x3 to 0x6). -/
def ITy.full (t : ITy) : Bool := t == .i32 || t == .n32 || t.wide

/-- A conversion format that Table 1.1 lists: precision 1 to 7 (R21). -/
def FFmt.ok : FFmt → Bool
  | .ieee _ => true
  | .p3109 _ p => decide (p ≠ 0#3)

/-- The rest of Table 4.1 and of each opcode's own rules. MOVI.sx into a queue or 0xE0 is legal: R115 names a vector destination alone
(DESIGN CHOICE, assumption 82). -/
def Instr.vextra : Instr → Bool
  | .fcvt _ s d _ _ => s.ok && d.ok
  | .ftoi _ s _ _ => s.ok
  | .itof _ _ d _ _ => d.ok
  | .fdiv o _ _ _ => !o.d.isQ
  | .afcp o => !o.a.op.isQ && !o.b.op.isQ && !o.d.isQ
  | .imul _ t _ => t.full
  | .imulh _ t => t.full
  | .imad _ t _ => t.full
  | .iabs _ t _ => t.isSigned
  | .and _ t => t.full
  | .or _ t => t.full
  | .xor _ t => t.full
  | .andn _ t => t.full
  | .shl _ t => t.full
  | .shr _ t => t.full
  | .sar _ t => t.full
  | .rotl _ t => t.full
  | .popc _ t => t.full
  | .clz _ t => t.full
  | .brev _ t => t.full
  | .bfe _ t => t.full
  | .lbrd o _ => o.b.op.isS
  | .rowb o _ => o.b.op.isS
  | .colb o _ => o.b.op.isS
  | .lred _ t _ op r => redOk t op r
  | .lscn _ t _ op r => redOk t op r
  | .movi _ d _ sx => !(sx && d.isV)
  | _ => true
where
  /-- Types, operation and rounding of LRED and LSCN (R118, Table 4.7). -/
  redOk (t : RTy) (op : RedOp) (r : RMode) : Bool :=
    (match t with
      | .f _ => decide (op ≠ .or) && decide (r ≠ .sr) && (decide (op = .add) || decide (r = .rn))
      | .i .i32 => decide (r = .rn)
      | .i .n32 => decide (r = .rn)
      | .i _ => false)

def Size.bytes : Size → Nat | .w8 => 1 | .w16 => 2 | .w32 => 4 | .w64 => 8
def Size.wide (s : Size) : Bool := s == .w64
def ATy.wide : ATy → Bool | .i64 => true | .n64 => true | _ => false

/-- BASE of LD and ST (R158, R164): a scalar, or outside the scratchpad an even vector pair, in .h too. -/
def ldBase (o : Mem) : Bool :=
  match o.base with
  | .s _ => true
  | .v n => decide (o.space ≠ .s) && decide (n.toNat % 2 = 0)
  | _ => false

/-- DATA as a vector load destination or a vector store source (Table 3.9, R158). -/
def ldData (o : Mem) : Bool := (o.data.isV || o.data.isZero) && (!o.size.wide || o.data.evenOk) && !o.last
def stData (o : Mem) : Bool := (o.data.isV || o.data.isLatch) && (!o.size.wide || o.data.evenOk) && (!o.last || o.data.isLatch)
/-- A cache operator other than .cd is legal only in .g, .c and .l (R70). -/
def copOk (o : Mem) : Bool := decide (o.cop = .cd) || o.space == .g || o.space == .c || o.space == .l

/-- R165 to R167 apart from the type pairings; DATA 0xE0 reads zeros and discards the old value (Table 3.9). Assumption 21. -/
def Atom.ok (o : Atom) (cas : Bool) : Bool :=
  (o.space == .s || o.space == .g || o.space == .h) &&
  (match o.base with | .s _ => true | .v n => !o.data.isS && decide (o.space ≠ .h) && (o.space == .s || n.toNat % 2 == 0) | _ => false) &&
  (match o.data with
    | .s _ => true
    | .v n => decide (o.space ≠ .h) &&
        (if cas then (if o.ty.wide then n.toNat % 4 == 0 else n.toNat % 2 == 0) else !o.ty.wide || n.toNat % 2 == 0)
    | .x n => n == 0#5 && decide (o.space ≠ .h)
    | _ => false)

/-- Consumed tags differ from each other and from the produced tag (R72). -/
def XOp.ok (o : XOp) : Bool :=
  match o.ct with
  | .t0 => true
  | .t1 a => decide (a ≠ o.ptag)
  | .t2 a b => decide (a ≠ o.ptag) && decide (b ≠ o.ptag) && decide (a ≠ b)
  | .t3 a b c => decide (a ≠ o.ptag) && decide (b ≠ o.ptag) && decide (c ≠ o.ptag) && decide (a ≠ b) && decide (a ≠ c) && decide (b ≠ c)

/-- System register numbers that are not reserved (Table 5.3; the command registers are those of Table 15.1). -/
def sysKnown (n : Nat) : Bool :=
  decide (n ≤ 0x008) || (decide (0x010 ≤ n) && decide (n ≤ 0x013)) || n == 0x020 || n == 0x021 || n == 0x030 ||
  (decide (0x040 ≤ n) && decide (n ≤ 0x05F)) || (decide (0x100 ≤ n) && decide (n ≤ 0x111))

/-- Registers SETS may name at decode; the trap record's own rule depends on trap mode (R139). -/
def sysWritable (n : Nat) : Bool :=
  decide (n ≤ 0x004) || n == 0x013 || (decide (0x040 ≤ n) && decide (n ≤ 0x05F)) ||
  (decide (0x102 ≤ n) && decide (n ≤ 0x111) && n != 0x10C && n != 0x10F)

/-- Legal M-, X- and C-slot operations, apart from the flag-select rule of the form. -/
def Instr.mxcOk : Instr → Bool
  | .ld o => ldData o && ldBase o && copOk o
  | .ldX o => ldData o && o.base.isV && o.space == .s && o.cop == .cd
  | .st o => stData o && ldBase o && copOk o && decide (o.space ≠ .c)
  | .stX o => stData o && o.base.isV && o.space == .s && o.cop == .cd
  | .ldb o => (o.data.isS || o.data.isZero) && !o.last && o.base.isS && copOk o
  | .stb o => (o.data.isS || o.data.isLatch) && (!o.last || o.data.isLatch) && o.base.isS && copOk o && decide (o.space ≠ .c)
  | .ldt o => ldData o && o.base.isS && o.space == .s && o.cop == .cd
  | .stt o => stData o && o.base.isS && o.space == .s && o.cop == .cd
  | .atomAdd o => o.ok false
  | .atomMin o => o.ok false
  | .atomMax o => o.ok false
  | .atomAnd o => o.ok false && o.ty != .f32
  | .atomOr o => o.ok false && o.ty != .f32
  | .atomXor o => o.ok false && o.ty != .f32
  | .atomXchg o => o.ok false
  | .atomIncw o => o.ok false && (o.ty == .n32 || o.ty == .n64)
  | .cas o => o.ok true && o.ty != .f32
  | .ldset o => o.data.isV || o.data.isZero
  | .send o => o.data.isS || o.data.isZero
  | .recv o => o.data.isS || o.data.isZero
  | .waita o => (o.data.isS || o.data.isZero) && (o.space == .s || o.space == .g || o.space == .h)
  | .fence _ _ k _ => decide (k ≠ .relaxed)
  | .pref _ n _ _ _ => decide (n ≠ 0#8)
  | .cpy o => o.ok
  | .cpyq o => o.ok
  | .cpyo o => o.ok
  | .cpyr o => o.ok
  | .coll o => o.ok
  | .mxq o => o.ok
  | .mxrd o _ => o.ok
  | .mxwr o _ => o.ok
  | .mxz o => o.ok
  | .mxcrd o => o.ok
  | .mxcwr o => o.ok
  | .brv _ _ _ _ j => decide (j ≠ 0#10)
  | .nest _ _ d _ => decide (d.toNat ≤ 5)
  | .clause _ a b => clauseOk a b
  | .shape _ r => decide (r ≠ 7#3)
  | .gets _ _ n => sysKnown n.toNat
  | .sets _ n _ => sysKnown n.toNat && sysWritable n.toNat
  | _ => true
where
  /-- FA and FB are 0 to 11 or 15, and differ unless both are 15 (R75). -/
  clauseOk (a b : BitVec 4) : Bool :=
    (decide (a.toNat ≤ 11) || a == 15#4) && (decide (b.toNat ≤ 11) || b == 15#4) && (decide (a ≠ b) || a == 15#4)

/-- CAS under .f32 is refused with the other pairings of R167; the type of CAS is a bit comparison. -/
def Instr.wf (i : Instr) : Bool :=
  match i.vinfo with
  | some v => v.ok && i.vextra
  | none => i.mxcOk

/-- The flag select of an operation, and what the bundle form demands of it (R71, Table 6.3). -/
inductive FRule where
  | fixed | needs | may
  deriving DecidableEq, Repr

def Instr.fsel : Instr → Option (FSel × FRule)
  | .fdiv _ _ _ f => some (f, .needs)
  | .ld o => some (o.fsel, if o.space = .s then .fixed else .needs)
  | .ldX o => some (o.fsel, .needs)
  | .ldb o => some (o.fsel, if o.space = .s then .fixed else .needs)
  | .ldt o => some (o.fsel, .fixed)
  | .st o => some (o.fsel, if o.space = .s then .fixed else .may)
  | .stb o => some (o.fsel, if o.space = .s then .fixed else .may)
  | .stt o => some (o.fsel, .fixed)
  | .stX o => some (o.fsel, .may)
  | .ldset o => some (o.fsel, .needs)
  | .atomAdd o => some (o.fsel, .needs)
  | .atomMin o => some (o.fsel, .needs)
  | .atomMax o => some (o.fsel, .needs)
  | .atomAnd o => some (o.fsel, .needs)
  | .atomOr o => some (o.fsel, .needs)
  | .atomXor o => some (o.fsel, .needs)
  | .atomXchg o => some (o.fsel, .needs)
  | .atomIncw o => some (o.fsel, .needs)
  | .cas o => some (o.fsel, .needs)
  | .waita o => some (o.fsel, .needs)
  | .fence _ _ _ f => some (f, .may)
  | .drain _ _ f => some (f, .may)
  | .drainRel _ _ f => some (f, .may)
  | .flush _ _ _ _ f => some (f, .may)
  | .bpref _ _ _ _ f => some (f, .may)
  | .pref _ _ _ _ f => some (f, .may)
  | .send o => some (o.fsel, .needs)
  | .recv o => some (o.fsel, .needs)
  | _ => none

/-- Whether the operation uses a latch name or a last-read mark (R79). -/
def Instr.usesLatch (i : Instr) : Bool :=
  match i.vinfo with
  | some v => v.srcs.any (fun s => s.1.op.isLatch || s.1.last)
  | none => match i with
    | .st o => o.data.isLatch || o.last
    | .stX o => o.data.isLatch || o.last
    | .stb o => o.data.isLatch || o.last
    | .stt o => o.data.isLatch || o.last
    | _ => false

/-- Legal in a bundle (R71, R77). -/
def Instr.wfBundle (i : Instr) : Bool :=
  i.wf && (match i.fsel with
    | none => true
    | some (f, .fixed) => f == .none
    | some (f, .needs) => f != .none
    | some (_, .may) => true) &&
  (match i with | .macroOp _ _ _ => false | _ => true)

/-- Legal in a Beyrum word (R79). -/
def Instr.wfBeyrum (i : Instr) : Bool :=
  i.wf && (match i.fsel with | none => true | some (f, _) => f == .none) && !i.usesLatch &&
  (match i with | .clause _ _ _ => false | _ => true)

/-- The slot of an operation; NOP stands in every slot (R65). -/
def Instr.slot : Instr → Option Slot
  | .ld _ => some .m | .ldX _ => some .m | .st _ => some .m | .stX _ => some .m | .ldb _ => some .m | .stb _ => some .m
  | .ldt _ => some .m | .stt _ => some .m | .ldset _ => some .m | .atomAdd _ => some .m | .atomMin _ => some .m
  | .atomMax _ => some .m | .atomAnd _ => some .m | .atomOr _ => some .m | .atomXor _ => some .m | .atomXchg _ => some .m
  | .atomIncw _ => some .m | .cas _ => some .m | .waita _ => some .m | .l1inv _ => some .m | .fence _ _ _ _ => some .m
  | .drain _ _ _ => some .m | .drainRel _ _ _ => some .m | .flush _ _ _ _ _ => some .m | .bpref _ _ _ _ _ => some .m
  | .pref _ _ _ _ _ => some .m | .send _ => some .m | .recv _ => some .m
  | .cpy _ => some .x | .cpyq _ => some .x | .cpyo _ => some .x | .cpyr _ => some .x | .coll _ => some .x | .mxq _ => some .x
  | .mxrd _ _ => some .x | .mxwr _ _ => some .x | .mxz _ => some .x | .mxcrd _ => some .x | .mxcwr _ => some .x
  | .br _ _ => some .c | .brc _ _ _ => some .c | .brv _ _ _ _ _ => some .c | .jmpi _ _ => some .c | .call _ _ _ => some .c
  | .ret _ _ => some .c | .loop _ _ _ _ => some .c | .lmark _ => some .c | .nest _ _ _ _ => some .c | .clause _ _ _ => some .c
  | .wflg _ => some .c | .twany _ => some .c | .twall _ => some .c | .tffr _ _ => some .c | .tclr _ _ => some .c
  | .bar _ => some .c | .gbar _ => some .c | .sbar _ => some .c | .shape _ _ => some .c | .rngix _ _ => some .c
  | .gets _ _ _ => some .c | .sets _ _ _ => some .c | .yield => some .c | .exit _ => some .c | .launch _ => some .c
  | .node _ => some .c | .trap _ _ => some .c | .bkpt _ => some .c | .eretReplay => some .c | .macroOp _ _ _ => some .c
  | i => if i.vinfo.isSome then some .v else none

end Sys2Proof
end

