-- ==== Sys2Proof/Decode.lean ====
section
/-! DEFINITION. Bits to instructions and back: slot formats (Tables 3.2 to 3.6), operand codes (R49, R74), the
opcode map (R85), bundles (R65), Beyrum words (R78). Decoding is total; what it refuses is an illegal encoding. -/

namespace Sys2Proof

/-- Cut a number into fields of the given widths, least significant first. -/
def splitBits : List Nat → Nat → List Nat
  | [], _ => []
  | w :: ws, x => x % 2 ^ w :: splitBits ws (x / 2 ^ w)

/-- Join fields of the given widths, least significant first. -/
def packBits : List Nat → List Nat → Nat
  | w :: ws, v :: vs => v % 2 ^ w + 2 ^ w * packBits ws vs
  | _, _ => 0

/-- Field widths of the five slot formats, least significant first (Tables 3.2 to 3.6). -/
def v3W : List Nat := [4, 1, 2, 4, 1, 1, 1, 8, 8, 8, 8, 3, 1, 10]
def vlW : List Nat := [6, 32, 8, 3, 1, 10]
def mW : List Nat := [1, 3, 2, 3, 3, 1, 1, 16, 8, 8, 3, 1, 10]
def xW : List Nat := [10, 1, 7, 7, 7, 6, 8, 3, 1, 10]
def cW : List Nat := [14, 8, 24, 3, 1, 10]

/-- The V3 format: MOD [3:0], SR, RND, TYPE, the marks of SRCC, SRCB and SRCA, SRCC, SRCB, SRCA, DST, PIDX,
PNEG, OPC. -/
structure V3F where
  md : Nat
  sr : Nat
  rnd : Nat
  ty : Nat
  mc : Nat
  mb : Nat
  ma : Nat
  c : Nat
  b : Nat
  a : Nat
  d : Nat
  pi : Nat
  pn : Nat
  opc : Nat
  deriving DecidableEq, Repr

structure VLF where
  md : Nat
  imm : Nat
  d : Nat
  pi : Nat
  pn : Nat
  opc : Nat
  deriving DecidableEq, Repr

structure MF where
  rsv : Nat
  cop : Nat
  fsel : Nat
  space : Nat
  size : Nat
  mb : Nat
  md : Nat
  ofs : Nat
  base : Nat
  data : Nat
  pi : Nat
  pn : Nat
  opc : Nat
  deriving DecidableEq, Repr

structure XF where
  md : Nat
  rsv : Nat
  c2 : Nat
  c1 : Nat
  c0 : Nat
  ptag : Nat
  dbase : Nat
  pi : Nat
  pn : Nat
  opc : Nat
  deriving DecidableEq, Repr

structure CF where
  md : Nat
  sop : Nat
  imm : Nat
  pi : Nat
  pn : Nat
  opc : Nat
  deriving DecidableEq, Repr

def V3F.of (w : Nat) : V3F :=
  match splitBits v3W w with
  | [md, sr, rnd, ty, mc, mb, ma, c, b, a, d, pi, pn, opc] => ⟨md, sr, rnd, ty, mc, mb, ma, c, b, a, d, pi, pn, opc⟩
  | _ => ⟨0, 0, 0, 0, 0, 0, 0, 0, 0, 0, 0, 0, 0, 0⟩
def V3F.bits (f : V3F) : Nat :=
  packBits v3W [f.md, f.sr, f.rnd, f.ty, f.mc, f.mb, f.ma, f.c, f.b, f.a, f.d, f.pi, f.pn, f.opc]
def VLF.of (w : Nat) : VLF :=
  match splitBits vlW w with
  | [md, imm, d, pi, pn, opc] => ⟨md, imm, d, pi, pn, opc⟩
  | _ => ⟨0, 0, 0, 0, 0, 0⟩
def VLF.bits (f : VLF) : Nat := packBits vlW [f.md, f.imm, f.d, f.pi, f.pn, f.opc]
def MF.of (w : Nat) : MF :=
  match splitBits mW w with
  | [r, cop, fsel, space, size, mb, md, ofs, base, data, pi, pn, opc] => ⟨r, cop, fsel, space, size, mb, md, ofs, base, data, pi, pn, opc⟩
  | _ => ⟨0, 0, 0, 0, 0, 0, 0, 0, 0, 0, 0, 0, 0⟩
def MF.bits (f : MF) : Nat :=
  packBits mW [f.rsv, f.cop, f.fsel, f.space, f.size, f.mb, f.md, f.ofs, f.base, f.data, f.pi, f.pn, f.opc]
def XF.of (w : Nat) : XF :=
  match splitBits xW w with
  | [md, r, c2, c1, c0, ptag, dbase, pi, pn, opc] => ⟨md, r, c2, c1, c0, ptag, dbase, pi, pn, opc⟩
  | _ => ⟨0, 0, 0, 0, 0, 0, 0, 0, 0, 0⟩
def XF.bits (f : XF) : Nat := packBits xW [f.md, f.rsv, f.c2, f.c1, f.c0, f.ptag, f.dbase, f.pi, f.pn, f.opc]
def CF.of (w : Nat) : CF :=
  match splitBits cW w with
  | [md, sop, imm, pi, pn, opc] => ⟨md, sop, imm, pi, pn, opc⟩
  | _ => ⟨0, 0, 0, 0, 0, 0⟩
def CF.bits (f : CF) : Nat := packBits cW [f.md, f.sop, f.imm, f.pi, f.pn, f.opc]

/-! ### Field codes -/

/-- The operand named by an 8-bit code (R49, R57). -/
def Opnd.ofCode (c : Nat) : Opnd :=
  if c < 0x80 then .v (BitVec.ofNat 7 c)
  else if c < 0xC0 then .s (BitVec.ofNat 6 (c - 0x80))
  else if c < 0xC8 then .fv (BitVec.ofNat 3 (c - 0xC0))
  else if c < 0xD0 then .fm (BitVec.ofNat 3 (c - 0xC8))
  else if c < 0xE0 then .q (BitVec.ofNat 4 (c - 0xD0))
  else .x (BitVec.ofNat 5 (c - 0xE0))

def Opnd.code : Opnd → Nat
  | .v n => n.toNat
  | .s n => 0x80 + n.toNat
  | .fv k => 0xC0 + k.toNat
  | .fm k => 0xC8 + k.toNat
  | .q n => 0xD0 + n.toNat
  | .x n => 0xE0 + n.toNat

def Pred.of (pi pn : Nat) : Pred := { neg := pn == 1, idx := BitVec.ofNat 3 pi }
def bN (b : Bool) : Nat := if b then 1 else 0

/-- A scalar register field; any other class is not accepted there (R73, R74). -/
def sReg (c : Nat) : Option (BitVec 6) := if 0x80 ≤ c ∧ c < 0xC0 then some (BitVec.ofNat 6 (c - 0x80)) else none
/-- A predicate number field (R69). -/
def pNum (c : Nat) : Option (BitVec 3) := if c < 8 then some (BitVec.ofNat 3 c) else none

def FTy.of : Nat → Option FTy | 0 => some .f32 | 1 => some .f16 | 2 => some .bf16 | _ => none
def FTy.code : FTy → Nat | .f32 => 0 | .f16 => 1 | .bf16 => 2
def ITy.of : Nat → Option ITy
  | 3 => some .i32 | 4 => some .n32 | 5 => some .i64 | 6 => some .n64 | 7 => some .i16 | 8 => some .n16 | 9 => some .i8 | 10 => some .n8
  | _ => none
def ITy.code : ITy → Nat
  | .i32 => 3 | .n32 => 4 | .i64 => 5 | .n64 => 6 | .i16 => 7 | .n16 => 8 | .i8 => 9 | .n8 => 10
def RTy.of (c : Nat) : Option RTy := if c < 3 then (FTy.of c).map .f else (ITy.of c).map .i
def RTy.code : RTy → Nat | .f t => t.code | .i t => t.code
def wideOf : Nat → Option Bool | 4 => some false | 6 => some true | _ => none
def wideCode (w : Bool) : Nat := if w then 6 else 4
/-- RND and SR together (R24). -/
def RMode.of : Nat → Nat → Option RMode
  | 0, 0 => some .rn | 1, 0 => some .rz | 2, 0 => some .rd | 3, 0 => some .ru | 0, 1 => some .sr | _, _ => none
def RMode.rnd : RMode → Nat | .rn => 0 | .rz => 1 | .rd => 2 | .ru => 3 | .sr => 0
def RMode.srBit : RMode → Nat | .sr => 1 | _ => 0
def satOf : Nat → Option Bool | 0 => some false | 8 => some true | _ => none
def satCode (b : Bool) : Nat := if b then 8 else 0
def bitOf : Nat → Option Bool | 0 => some false | 1 => some true | _ => none

/-- Table 1.1, float formats of conversions. -/
def FFmt.of (c : Nat) : Option FFmt :=
  if c = 0x10 then some (.ieee .f32) else if c = 0x11 then some (.ieee .f16) else if c = 0x12 then some (.ieee .bf16)
  else if 0x20 < c ∧ c < 0x28 then some (.p3109 .signed (BitVec.ofNat 3 (c - 0x20)))
  else if 0x30 < c ∧ c < 0x38 then some (.p3109 .extended (BitVec.ofNat 3 (c - 0x30)))
  else if 0x40 < c ∧ c < 0x48 then some (.p3109 .unsigned (BitVec.ofNat 3 (c - 0x40)))
  else none
def FFmt.code : FFmt → Nat
  | .ieee .f32 => 0x10 | .ieee .f16 => 0x11 | .ieee .bf16 => 0x12
  | .p3109 .signed p => 0x20 + p.toNat | .p3109 .extended p => 0x30 + p.toNat | .p3109 .unsigned p => 0x40 + p.toNat
/-- Table 1.1, integer formats of conversions. -/
def ITy.ofFmt : Nat → Option ITy
  | 1 => some .n8 | 2 => some .n16 | 3 => some .n32 | 4 => some .n64 | 5 => some .i8 | 6 => some .i16 | 7 => some .i32 | 8 => some .i64
  | _ => none
def ITy.fmt : ITy → Nat
  | .n8 => 1 | .n16 => 2 | .n32 => 3 | .n64 => 4 | .i8 => 5 | .i16 => 6 | .i32 => 7 | .i64 => 8
def FCond.of : Nat → Option FCond
  | 0 => some .eq | 1 => some .ne | 2 => some .lt | 3 => some .le | 4 => some .gt | 5 => some .ge | 6 => some .ord | 7 => some .un | _ => none
def FCond.code : FCond → Nat | .eq => 0 | .ne => 1 | .lt => 2 | .le => 3 | .gt => 4 | .ge => 5 | .ord => 6 | .un => 7
def ICond.of : Nat → Option ICond
  | 0 => some .eq | 1 => some .ne | 2 => some .lt | 3 => some .le | 4 => some .gt | 5 => some .ge | _ => none
def ICond.code : ICond → Nat | .eq => 0 | .ne => 1 | .lt => 2 | .le => 3 | .gt => 4 | .ge => 5
def FSel.of : Nat → Option FSel | 0 => some .none | 1 => some .a | 2 => some .b | _ => Option.none
def FSel.code : FSel → Nat | .none => 0 | .a => 1 | .b => 2
def Size.of : Nat → Option Size | 0 => some .w8 | 1 => some .w16 | 2 => some .w32 | 3 => some .w64 | _ => none
def Size.code : Size → Nat | .w8 => 0 | .w16 => 1 | .w32 => 2 | .w64 => 3
def Space.of : Nat → Option Space | 0 => some .s | 1 => some .g | 2 => some .c | 3 => some .h | 4 => some .l | _ => none
def Space.code : Space → Nat | .s => 0 | .g => 1 | .c => 2 | .h => 3 | .l => 4
def CacheOp.of : Nat → Option CacheOp | 0 => some .cd | 1 => some .cg | 2 => some .cs | 3 => some .cn | _ => none
def CacheOp.code : CacheOp → Nat | .cd => 0 | .cg => 1 | .cs => 2 | .cn => 3
def ATy.of : Nat → Option ATy | 0 => some .i32 | 1 => some .n32 | 2 => some .i64 | 3 => some .n64 | 4 => some .f32 | _ => none
def ATy.code : ATy → Nat | .i32 => 0 | .n32 => 1 | .i64 => 2 | .n64 => 3 | .f32 => 4
def Ord.of : Nat → Option Ord | 0 => some .relaxed | 1 => some .acq | 2 => some .rel | 3 => some .ar | _ => none
def Ord.code : Ord → Nat | .relaxed => 0 | .acq => 1 | .rel => 2 | .ar => 3
def SetOp.of : Nat → Option SetOp
  | 0 => some .addF32 | 1 => some .addBf16 | 2 => some .minF32 | 3 => some .maxF32 | 4 => some .addI32 | 5 => some .and | 6 => some .or
  | 7 => some .xor | _ => none
def SetOp.code : SetOp → Nat
  | .addF32 => 0 | .addBf16 => 1 | .minF32 => 2 | .maxF32 => 3 | .addI32 => 4 | .and => 5 | .or => 6 | .xor => 7
def Scope.of : Nat → Option Scope | 0 => some .core | 1 => some .clu | 2 => some .die | 3 => some .pkg | 4 => some .sys | _ => none
def Scope.code : Scope → Nat | .core => 0 | .clu => 1 | .die => 2 | .pkg => 3 | .sys => 4
def RedKind.of : Nat → Option RedKind | 0 => some .row | 1 => some .col | 2 => some .all | _ => none
def RedKind.code : RedKind → Nat | .row => 0 | .col => 1 | .all => 2
def RedOp.of : Nat → Option RedOp | 0 => some .add | 1 => some .min | 2 => some .max | 3 => some .or | _ => none
def RedOp.code : RedOp → Nat | .add => 0 | .min => 1 | .max => 2 | .or => 3

/-! ### V slot -/

def V3F.pred (f : V3F) : Pred := Pred.of f.pi f.pn
def V3F.srcA (f : V3F) : Src := ⟨Opnd.ofCode f.a, f.ma == 1⟩
def V3F.srcB (f : V3F) : Src := ⟨Opnd.ofCode f.b, f.mb == 1⟩
def V3F.srcC (f : V3F) : Src := ⟨Opnd.ofCode f.c, f.mc == 1⟩
def V3F.un (f : V3F) : Un := ⟨f.pred, Opnd.ofCode f.d, f.srcA⟩
def V3F.bin (f : V3F) : Bin := ⟨f.pred, Opnd.ofCode f.d, f.srcA, f.srcB⟩
def V3F.tern (f : V3F) : Tern := ⟨f.pred, Opnd.ofCode f.d, f.srcA, f.srcB, f.srcC⟩
/-- Unused fields hold zero (R67). -/
def V3F.noB (f : V3F) : Bool := f.b == 0 && f.mb == 0
def V3F.noC (f : V3F) : Bool := f.c == 0 && f.mc == 0
def V3F.noR (f : V3F) : Bool := f.rnd == 0 && f.sr == 0

/-- One source; SRCB and SRCC unused. -/
def d1 (f : V3F) (mk : Un → Option Instr) : Option Instr := if f.noB && f.noC then mk f.un else none
/-- Two sources; SRCC unused. -/
def d2 (f : V3F) (mk : Bin → Option Instr) : Option Instr := if f.noC then mk f.bin else none
/-- A comparison: DST is a predicate number. -/
def dCmp (f : V3F) (mk : CmpOp → Option Instr) : Option Instr :=
  if f.noC then (pNum f.d).bind (fun pd => mk ⟨f.pred, pd, f.srcA, f.srcB⟩) else none
/-- Float type with rounding and .sat. -/
def dFRS (f : V3F) (mk : FTy → RMode → Bool → Instr) : Option Instr :=
  (FTy.of f.ty).bind fun t => (RMode.of f.rnd f.sr).bind fun r => (satOf f.md).map (mk t r)
/-- Float type with rounding. -/
def dFR (f : V3F) (mk : FTy → RMode → Instr) : Option Instr :=
  if f.md = 0 then (FTy.of f.ty).bind fun t => (RMode.of f.rnd f.sr).map (mk t) else none
/-- Float type alone. -/
def dF (f : V3F) (mk : FTy → Instr) : Option Instr := if f.noR && f.md == 0 then (FTy.of f.ty).map mk else none
/-- Integer type with .sat. -/
def dIS (f : V3F) (mk : ITy → Bool → Instr) : Option Instr :=
  if f.noR then (ITy.of f.ty).bind fun t => (satOf f.md).map (mk t) else none
/-- Integer type alone. -/
def dI (f : V3F) (mk : ITy → Instr) : Option Instr := if f.noR && f.md == 0 then (ITy.of f.ty).map mk else none
/-- .n32 or .n64 alone. -/
def dW (f : V3F) (mk : Bool → Instr) : Option Instr := if f.noR && f.md == 0 then (wideOf f.ty).map mk else none
/-- A conversion: SRCB and SRCC hold formats, TYPE is 0 (R68). -/
def dCv (f : V3F) : Bool := f.ty == 0 && f.mb == 0 && f.mc == 0

def decodeV3 (f : V3F) : Option Instr :=
  match f.opc with
  | 0x010 => d2 f fun o => dFRS f (.fadd o)
  | 0x011 => d2 f fun o => dFRS f (.fsub o)
  | 0x012 => d2 f fun o => dFRS f (.fmul o)
  | 0x013 => dFRS f (.fma f.tern)
  | 0x014 => dFRS f (.fms f.tern)
  | 0x015 => dFRS f (.fnma f.tern)
  | 0x016 => d2 f fun o => dF f (.fmin o)
  | 0x017 => d2 f fun o => dF f (.fmax o)
  | 0x018 => dCmp f fun o => if f.noR then (FTy.of f.ty).bind fun t => (FCond.of f.md).map (.fcmp o t) else none
  | 0x019 => d1 f fun o => dF f (.fcls o)
  | 0x01A => d1 f fun o => dFR f (.frnd o)
  | 0x01B => if dCv f then (FFmt.of f.b).bind fun s => (FFmt.of f.c).bind fun d => (RMode.of f.rnd f.sr).bind fun r =>
      (satOf f.md).map (.fcvt f.un s d r) else none
  | 0x01C => if f.ty == 1 || f.ty == 2 then (RMode.of f.rnd f.sr).bind fun r => (satOf f.md).map (.fdot2 f.tern (f.ty == 2) r) else none
  | 0x01D => d2 f fun o => dFRS f (.fscl o)
  | 0x01E => d2 f fun o => if f.noR && f.md == 0 && f.ty == 0 then some (.afcp o) else none
  | 0x020 => d1 f fun o => dFR f (.frcp o)
  | 0x021 => d1 f fun o => dFR f (.frsq o)
  | 0x022 => d1 f fun o => dFR f (.fsqrt o)
  | 0x023 => d1 f fun o => dFR f (.fex2 o)
  | 0x024 => d1 f fun o => dFR f (.flg2 o)
  | 0x025 => d1 f fun o => dFR f (.fsin o)
  | 0x026 => d1 f fun o => dFR f (.fcos o)
  | 0x027 => d1 f fun o => dFR f (.ftnh o)
  | 0x028 => d2 f fun o => (FTy.of f.ty).bind fun t => (RMode.of f.rnd f.sr).bind fun r =>
      if f.md % 4 = 0 then (FSel.of (f.md / 4)).map (.fdiv o t r) else none
  | 0x030 => d2 f fun o => dIS f (.iadd o)
  | 0x031 => d2 f fun o => dIS f (.isub o)
  | 0x032 => if f.noR then (wideOf f.ty).bind fun w => (bitOf f.md).map (.iadc f.tern w) else none
  | 0x033 => d2 f fun o => dIS f (.imul o)
  | 0x034 => d2 f fun o => dI f (.imulh o)
  | 0x035 => dIS f (.imad f.tern)
  | 0x036 => d2 f fun o => dI f (.imin o)
  | 0x037 => d2 f fun o => dI f (.imax o)
  | 0x038 => d1 f fun o => dIS f (.iabs o)
  | 0x039 => dCmp f fun o => if f.noR then (ITy.of f.ty).bind fun t => (ICond.of f.md).map (.icmp o t) else none
  | 0x03A => if dCv f && f.noR then (ITy.ofFmt f.b).bind fun s => (ITy.ofFmt f.c).bind fun d => (satOf f.md).map (.icvt f.un s d) else none
  | 0x03B => if dCv f && f.md == 0 then (FFmt.of f.b).bind fun s => (ITy.ofFmt f.c).bind fun d =>
      (RMode.of f.rnd f.sr).map (.ftoi f.un s d) else none
  | 0x03C => if dCv f then (ITy.ofFmt f.b).bind fun s => (FFmt.of f.c).bind fun d => (RMode.of f.rnd f.sr).bind fun r =>
      (satOf f.md).map (.itof f.un s d r) else none
  | 0x040 => d2 f fun o => dI f (.and o)
  | 0x041 => d2 f fun o => dI f (.or o)
  | 0x042 => d2 f fun o => dI f (.xor o)
  | 0x043 => d2 f fun o => dI f (.andn o)
  | 0x044 => d2 f fun o => dI f (.shl o)
  | 0x045 => d2 f fun o => dI f (.shr o)
  | 0x046 => d2 f fun o => dI f (.sar o)
  | 0x047 => d2 f fun o => dI f (.rotl o)
  | 0x048 => d1 f fun o => dI f (.popc o)
  | 0x049 => d1 f fun o => dI f (.clz o)
  | 0x04A => d1 f fun o => dI f (.brev o)
  | 0x04B => dI f (.bfe f.tern)
  | 0x04C => dW f (.bfi f.tern)
  | 0x04D => if f.noR && f.md == 0 && f.ty == 4 then some (.prmb f.tern) else none
  | 0x050 => d1 f fun o => dW f (.mov o)
  | 0x051 => if f.mc == 0 then (pNum f.c).bind fun pc => dW f (.sel f.bin pc) else none
  | 0x060 => d2 f fun o => dW f (.shuf o)
  | 0x061 => d2 f fun o => dW f (.lbrd o)
  | 0x062 => d2 f fun o => dW f (.rowb o)
  | 0x063 => d2 f fun o => dW f (.colb o)
  | 0x064 => d1 f fun o => dW f (.trns o)
  | 0x065 => d1 f fun o => if f.sr == 0 then (RTy.of f.ty).bind fun t => (RedKind.of (f.md % 4)).bind fun k =>
      (RedOp.of (f.md / 4)).bind fun op => (RMode.of f.rnd 0).map (.lred o t k op) else none
  | 0x066 => d1 f fun o => if f.sr == 0 then (RTy.of f.ty).bind fun t => (bitOf (f.md % 4)).bind fun e =>
      (RedOp.of (f.md / 4)).bind fun op => (RMode.of f.rnd 0).map (.lscn o t e op) else none
  | 0x070 => if f.noR && f.ty == 0 && f.noC && f.ma == 0 && f.mb == 0 then (pNum f.d).bind fun pd => (pNum f.a).bind fun pa =>
      (pNum f.b).map fun pb => .plog f.pred pd pa pb (BitVec.ofNat 4 f.md) else none
  | 0x071 => if f.noR && f.ty == 0 && f.noB && f.noC && f.ma == 0 then
      match f.md with
      | 0 => (pNum f.d).bind fun pd => (sReg f.a).map fun s => .pmovTp f.pred pd s
      | 1 => (sReg f.d).bind fun sd => (pNum f.a).map fun pa => .pmovFp f.pred sd pa
      | _ => none
    else none
  | 0x072 => if f.noR && f.ty == 0 && f.md == 0 && f.noB && f.noC && f.ma == 0 then
      (pNum f.a).map fun pa => .pcnt f.pred (Opnd.ofCode f.d) pa else none
  | 0x073 => if f.noR && f.ty == 0 && f.md == 0 && f.noB && f.noC && f.ma == 0 then
      (pNum f.a).map fun pa => .pffs f.pred (Opnd.ofCode f.d) pa else none
  | 0x078 => if f.noR && f.ty == 0 && f.md == 0 && f.noB && f.noC && f.ma == 0 && f.a == 0 then
      some (.rand f.pred (Opnd.ofCode f.d)) else none
  | _ => none

def decodeVL (f : VLF) : Option Instr :=
  match f.opc with
  | 0x200 => (bitOf f.md).map fun sx => .movi (Pred.of f.pi f.pn) (Opnd.ofCode f.d) (BitVec.ofNat 32 f.imm) sx
  | 0x201 => if f.md = 0 then some (.movh (Pred.of f.pi f.pn) (Opnd.ofCode f.d) (BitVec.ofNat 32 f.imm)) else none
  | _ => none

/-! ### M slot -/

def MF.pred (f : MF) : Pred := Pred.of f.pi f.pn
/-- A load or store with all its fields. -/
def dMem (f : MF) (mk : Mem → Instr) : Option Instr :=
  (Size.of f.size).bind fun sz => (Space.of f.space).bind fun sp => (FSel.of f.fsel).bind fun fs => (CacheOp.of f.cop).map fun co =>
    mk ⟨f.pred, Opnd.ofCode f.data, f.md == 1, Opnd.ofCode f.base, BitVec.ofNat 16 f.ofs, sz, sp, fs, co⟩
/-- An atomic: ORD in OFS [15:14], OFS14 below (R165). -/
def dAtom (f : MF) (mk : Atom → Instr) : Option Instr :=
  if f.size = 0 ∧ f.md = 0 then
    (ATy.of f.cop).bind fun t => (Space.of f.space).bind fun sp => (FSel.of f.fsel).bind fun fs => (Ord.of (f.ofs / 2 ^ 14)).map fun od =>
      mk ⟨f.pred, Opnd.ofCode f.data, Opnd.ofCode f.base, od, BitVec.ofNat 14 (f.ofs % 2 ^ 14), sp, fs, t⟩
  else none
/-- SEND and RECV (R379). -/
def dMsg (f : MF) (mk : Msg → Instr) : Option Instr :=
  if f.size = 2 ∧ f.md = 0 ∧ f.cop = 0 ∧ f.space ≤ 1 then
    (sReg f.base).bind fun b => (FSel.of f.fsel).map fun fs =>
      mk ⟨f.pred, Opnd.ofCode f.data, b, BitVec.ofNat 16 f.ofs, f.space == 0, fs⟩
  else none

/-- Assumption 21. -/
def decodeM (f : MF) : Option Instr :=
  if f.rsv ≠ 0 ∨ f.mb ≠ 0 then none else
  match f.opc with
  | 0x010 => dMem f .ld
  | 0x011 => dMem f .ldX
  | 0x012 => dMem f .st
  | 0x013 => dMem f .stX
  | 0x014 => dMem f .ldb
  | 0x015 => dMem f .stb
  | 0x016 => dMem f .ldt
  | 0x017 => dMem f .stt
  | 0x018 => if f.size = 2 ∧ f.space = 0 ∧ f.md = 0 ∧ (f.data < 0x80 ∨ f.data = 0xE0) then (sReg f.base).bind fun b => (FSel.of f.fsel).bind fun fs =>
      (SetOp.of f.cop).map fun op =>
        .ldset ⟨f.pred, Opnd.ofCode f.data, b, BitVec.ofNat 8 (f.ofs / 256), BitVec.ofNat 8 (f.ofs % 256), fs, op⟩ else none
  | 0x020 => dAtom f .atomAdd
  | 0x021 => dAtom f .atomMin
  | 0x022 => dAtom f .atomMax
  | 0x023 => dAtom f .atomAnd
  | 0x024 => dAtom f .atomOr
  | 0x025 => dAtom f .atomXor
  | 0x026 => dAtom f .atomXchg
  | 0x027 => dAtom f .atomIncw
  | 0x028 => dAtom f .cas
  | 0x029 => if (f.size = 2 ∨ f.size = 3) ∧ f.md = 0 then (sReg f.base).bind fun b =>
      (Space.of f.space).bind fun sp => (FSel.of f.fsel).map fun fs =>
        .waita ⟨f.pred, Opnd.ofCode f.data, b, BitVec.ofNat 16 f.ofs, f.size == 3, sp, fs, BitVec.ofNat 3 f.cop⟩ else none
  | 0x030 => if f.data = 0 ∧ f.base = 0 ∧ f.ofs = 0 ∧ f.md = 0 ∧ f.size = 0 ∧ f.space = 0 ∧ f.fsel = 0 ∧ f.cop = 0 then
      some (.l1inv f.pred) else none
  | 0x031 => if f.data = 0 ∧ f.base = 0 ∧ f.ofs = 0 ∧ f.md = 0 ∧ f.space = 0 then (Scope.of f.size).bind fun sc =>
      (Ord.of f.cop).bind fun k => (FSel.of f.fsel).map fun fs => .fence f.pred sc k fs else none
  | 0x032 => if f.data = 0 ∧ f.ofs = 0 ∧ f.md = 0 ∧ f.size = 0 ∧ f.space = 0 then (FSel.of f.fsel).bind fun fs =>
      (if f.base = 0xE0 then some none else (sReg f.base).map some).bind fun dst =>
        match f.cop with
        | 0 => some (.drain f.pred dst fs)
        | 2 => some (.drainRel f.pred dst fs)
        | _ => none
    else none
  | 0x033 => if f.data = 0 ∧ f.md = 0 ∧ f.size = 0 ∧ f.cop = 0 ∧ (f.space = 1 ∨ f.space = 4) then (sReg f.base).bind fun b =>
      (FSel.of f.fsel).map fun fs => .flush f.pred b (BitVec.ofNat 16 f.ofs) (f.space == 4) fs else none
  | 0x034 => if f.data < 64 ∧ f.md = 0 ∧ f.size = 0 ∧ f.cop = 0 ∧ f.space = 1 then (sReg f.base).bind fun b =>
      (FSel.of f.fsel).map fun fs => .bpref f.pred (BitVec.ofNat 6 f.data) b (BitVec.ofNat 16 f.ofs) fs else none
  | 0x035 => if f.md = 0 ∧ f.size = 0 ∧ f.cop = 0 ∧ f.space = 1 then (sReg f.base).bind fun b =>
      (FSel.of f.fsel).map fun fs => .pref f.pred (BitVec.ofNat 8 f.data) b (BitVec.ofNat 16 f.ofs) fs else none
  | 0x040 => dMsg f .send
  | 0x041 => dMsg f .recv
  | _ => none

/-! ### X slot -/

/-- CT0, CT1 and CT2 fill in that order; an invalid one holds zero (R72). Bit 6 of each is its valid bit. -/
def ctagsOf (c0 c1 c2 : Nat) : Option CTags :=
  if c0 < 64 then (if c0 = 0 ∧ c1 = 0 ∧ c2 = 0 then some .t0 else none)
  else if c1 < 64 then (if c1 = 0 ∧ c2 = 0 then some (.t1 (BitVec.ofNat 6 (c0 - 64))) else none)
  else if c2 < 64 then (if c2 = 0 then some (.t2 (BitVec.ofNat 6 (c0 - 64)) (BitVec.ofNat 6 (c1 - 64))) else none)
  else some (.t3 (BitVec.ofNat 6 (c0 - 64)) (BitVec.ofNat 6 (c1 - 64)) (BitVec.ofNat 6 (c2 - 64)))

def dX (f : XF) : Option XOp :=
  if f.rsv = 0 then (sReg f.dbase).bind fun b => (ctagsOf f.c0 f.c1 f.c2).map fun ct =>
    ⟨Pred.of f.pi f.pn, b, BitVec.ofNat 6 f.ptag, ct⟩
  else none
def dX0 (f : XF) (mk : XOp → Instr) : Option Instr := if f.md = 0 then (dX f).map mk else none

def decodeX (f : XF) : Option Instr :=
  match f.opc with
  | 0x010 => dX0 f .cpy
  | 0x011 => dX0 f .cpyq
  | 0x012 => dX0 f .cpyo
  | 0x013 => dX0 f .cpyr
  | 0x014 => dX0 f .coll
  | 0x020 => dX0 f .mxq
  | 0x021 => if f.md < 64 then (dX f).map fun o => .mxrd o (BitVec.ofNat 6 f.md) else none
  | 0x022 => if f.md < 64 then (dX f).map fun o => .mxwr o (BitVec.ofNat 6 f.md) else none
  | 0x023 => dX0 f .mxz
  | 0x024 => dX0 f .mxcrd
  | 0x025 => dX0 f .mxcwr
  | _ => none

/-! ### C slot -/

def CF.pred (f : CF) : Pred := Pred.of f.pi f.pn
/-- Split-wide: PRED holds 0000 (R126). -/
def CF.sw (f : CF) : Bool := f.pi == 0 && f.pn == 0
def CF.ofs (f : CF) : BitVec 24 := BitVec.ofNat 24 f.imm

/-- Table 5.2. -/
def brCondOf (md sop : Nat) : Option BrCond :=
  if md < 4 then (sReg sop).bind fun s => match md with
    | 0 => some (.nz s) | 1 => some (.z s) | 2 => some (.neg s) | 3 => some (.nneg s) | _ => none
  else if sop = 0 ∧ md < 128 then
    match md % 16 with
    | 4 => some (.any (BitVec.ofNat 3 (md / 16)))
    | 5 => some (.all (BitVec.ofNat 3 (md / 16)))
    | 6 => some (.none (BitVec.ofNat 3 (md / 16)))
    | _ => none
  else none

/-- Assumption 13. -/
def decodeC (f : CF) : Option Instr :=
  match f.opc with
  | 0x010 => if f.sop = 0 ∧ f.md = 0 then some (.br f.pred f.ofs) else none
  | 0x011 => (brCondOf f.md f.sop).map fun c => .brc f.pred c f.ofs
  | 0x012 => if f.sop = 0 then some (.brv f.pred (f.md / 8 % 2 == 1) (BitVec.ofNat 3 (f.md % 8)) f.ofs (BitVec.ofNat 10 (f.md / 16))) else none
  | 0x013 => if f.imm = 0 ∧ f.md = 0 then (sReg f.sop).map (.jmpi f.pred) else none
  | 0x014 => if f.md = 0 then (sReg f.sop).map fun s => .call f.pred s f.ofs else none
  | 0x015 => if f.imm = 0 ∧ f.md = 0 then (sReg f.sop).map (.ret f.pred) else none
  | 0x020 => if f.sw && decide (f.md < 64) then (sReg f.sop).map fun s => .loop s f.ofs (f.md / 32 == 1) (BitVec.ofNat 5 (f.md % 32)) else none
  | 0x021 => if f.sw && decide (f.md < 32) && f.imm == 0 && f.sop == 0 then some (.lmark (BitVec.ofNat 5 f.md)) else none
  | 0x022 => if f.sw && f.imm == 0 then (sReg f.sop).map fun s =>
      .nest s (BitVec.ofNat 6 (f.md / 8 % 64)) (BitVec.ofNat 3 (f.md % 8)) (BitVec.ofNat 5 (f.md / 512)) else none
  | 0x030 => if f.sw && f.sop == 0 && f.md == 0 && f.imm % 16 == 0 then
      some (.clause (BitVec.ofNat 12 (f.imm / 2 ^ 12)) (BitVec.ofNat 4 (f.imm / 2 ^ 8)) (BitVec.ofNat 4 (f.imm / 2 ^ 4))) else none
  | 0x031 => if f.sw && f.sop == 0 && f.md == 0 && f.imm % 2 ^ 12 == 0 then some (.wflg (BitVec.ofNat 12 (f.imm / 2 ^ 12))) else none
  | 0x032 => if f.sw && f.imm == 0 && f.md == 0 then (sReg f.sop).map .twany else none
  | 0x033 => if f.sw && f.imm == 0 && f.md == 0 then (sReg f.sop).map .twall else none
  | 0x034 => if f.sw && f.imm == 0 && f.md % 256 == 0 then (sReg f.sop).map (.tffr (BitVec.ofNat 6 (f.md / 256))) else none
  | 0x035 => if f.imm = 0 ∧ f.md = 0 then (sReg f.sop).map (.tclr f.pred) else none
  | 0x040 => if f.sw && f.imm == 0 && f.sop == 0 && decide (f.md < 16) then some (.bar (BitVec.ofNat 4 f.md)) else none
  | 0x041 => if f.sw && f.imm == 0 && f.sop == 0 && decide (f.md < 4) then some (.gbar (BitVec.ofNat 2 f.md)) else none
  | 0x042 => if f.sw && f.md == 0 && f.sop == 0 && decide (f.imm < 256) then some (.sbar (BitVec.ofNat 8 f.imm)) else none
  | 0x050 => if f.imm = 0 ∧ f.sop = 0 ∧ f.md < 8 then some (.shape f.pred (BitVec.ofNat 3 f.md)) else none
  | 0x051 => if f.imm = 0 ∧ f.md = 0 then (sReg f.sop).map (.rngix f.pred) else none
  | 0x052 => if f.imm < 4096 ∧ f.md = 0 then (sReg f.sop).map fun s => .gets f.pred s (BitVec.ofNat 12 f.imm) else none
  | 0x053 => if f.imm < 4096 ∧ f.md = 0 then (sReg f.sop).map fun s => .sets f.pred (BitVec.ofNat 12 f.imm) s else none
  | 0x060 => if f.sw && f.imm == 0 && f.sop == 0 && f.md == 0 then some .yield else none
  | 0x061 => if f.imm = 0 ∧ f.sop = 0 ∧ f.md = 0 then some (.exit f.pred) else none
  | 0x062 => if f.sw && f.imm == 0 && f.md == 0 then (sReg f.sop).map .launch else none
  | 0x063 => if f.sw && f.sop == 0 && f.md == 0 then some (.node (BitVec.ofNat 24 f.imm)) else none
  | 0x070 => if f.sop = 0 ∧ f.md = 0 ∧ f.imm < 256 then some (.trap f.pred (BitVec.ofNat 8 f.imm)) else none
  | 0x071 => if f.sw && f.imm == 0 && f.sop == 0 && f.md == 0 then some .eretReplay else none
  | 0x072 => if f.imm = 0 ∧ f.sop = 0 ∧ f.md = 0 then some (.bkpt f.pred) else none
  | _ => none

/-- A C-class slot value: MACRO n carries its operands in the fields [45:0]; its expansion defines them
(Table 5.1, R79, R146). -/
def decodeCw (w : Nat) : Option Instr :=
  let f := CF.of w
  if 0x3C0 ≤ f.opc then some (.macroOp f.pred (BitVec.ofNat 6 (f.opc - 0x3C0)) (BitVec.ofNat 46 w))
  else decodeC f

/-- A slot value under its class, before the rules of form. Opcode 0x000 is NOP with every other bit zero (R77). -/
def decodeRaw (k : Slot) (w : Nat) : Option Instr :=
  if w / 2 ^ 50 % 2 ^ 10 = 0 then (if w = 0 then some .nop else none)
  else match k with
    | .v => if w / 2 ^ 59 % 2 = 0 then decodeV3 (V3F.of w) else decodeVL (VLF.of w)
    | .m => decodeM (MF.of w)
    | .x => decodeX (XF.of w)
    | .c => decodeCw w

/-- A slot of a bundle (R77). -/
def decodeSlot (k : Slot) (w : Nat) : Option Instr :=
  match decodeRaw k w with
  | some i => if i.wfBundle then some i else none
  | none => none

/-- The first offending place of a bundle, in the order header, V, M, X, C (R77). -/
inductive Place where
  | header | v | m | x | c
  deriving DecidableEq, Repr

/-- A decoded bundle. -/
structure Bundle where
  gap : BitVec 5
  v : Instr
  m : Instr
  x : Instr
  c : Instr
  deriving DecidableEq, Repr

inductive Decoded where
  | ok (b : Bundle)
  | bad (p : Place)
  deriving DecidableEq, Repr

/-- A 256-bit bundle (R65, Table 3.1). Assumption 62. -/
def decodeBundle (w : Nat) : Decoded :=
  if bitsNat w 5 11 ≠ 0 then .bad .header
  else match decodeSlot .v (bitsNat w 16 60) with
    | none => .bad .v
    | some v => match decodeSlot .m (bitsNat w 76 60) with
      | none => .bad .m
      | some m => match decodeSlot .x (bitsNat w 136 60) with
        | none => .bad .x
        | some x => match decodeSlot .c (bitsNat w 196 60) with
          | none => .bad .c
          | some c => .ok { gap := BitVec.ofNat 5 w, v := v, m := m, x := x, c := c }

/-- Slot classes of Table 3.15. -/
def slotOfClass : Nat → Option Slot | 0 => some .v | 1 => some .m | 2 => some .x | 3 => some .c | _ => none
def Slot.cls : Slot → Nat | .v => 0 | .m => 1 | .x => 2 | .c => 3

/-- A Beyrum word (R78, R79). -/
def decodeWord (w : Nat) : Option Instr :=
  (slotOfClass (bitsNat w 60 4)).bind fun k =>
    match decodeRaw k (bitsNat w 0 60) with
    | some i => if i.wfBeyrum then some i else none
    | none => none

/-- The place a bad Beyrum word is reported under: its class. Assumption 64. -/
def wordPlace (w : Nat) : Place :=
  match bitsNat w 60 4 with | 0 => .v | 1 => .m | 2 => .x | 3 => .c | _ => .header

/-! ### The encoder -/

def encPred (p : Pred) : Nat × Nat := (p.idx.toNat, bN p.neg)
/-- A V3 slot value from its parts. -/
def encV (opc : Nat) (p : Pred) (d a b c : Nat) (ma mb mc : Bool) (ty rnd sr md : Nat) : Nat :=
  V3F.bits ⟨md, sr, rnd, ty, bN mc, bN mb, bN ma, c, b, a, d, p.idx.toNat, bN p.neg, opc⟩
def eU (opc : Nat) (o : Un) (ty : Nat) (r : RMode) (md : Nat) : Nat :=
  encV opc o.p o.d.code o.a.op.code 0 0 o.a.last false false ty r.rnd r.srBit md
def eB (opc : Nat) (o : Bin) (ty : Nat) (r : RMode) (md : Nat) : Nat :=
  encV opc o.p o.d.code o.a.op.code o.b.op.code 0 o.a.last o.b.last false ty r.rnd r.srBit md
def eT (opc : Nat) (o : Tern) (ty : Nat) (r : RMode) (md : Nat) : Nat :=
  encV opc o.p o.d.code o.a.op.code o.b.op.code o.c.op.code o.a.last o.b.last o.c.last ty r.rnd r.srBit md
def eCmp (opc : Nat) (o : CmpOp) (ty md : Nat) : Nat :=
  encV opc o.p o.pd.toNat o.a.op.code o.b.op.code 0 o.a.last o.b.last false ty 0 0 md
def eCv (opc : Nat) (o : Un) (s d : Nat) (r : RMode) (md : Nat) : Nat :=
  encV opc o.p o.d.code o.a.op.code s d o.a.last false false 0 r.rnd r.srBit md
def eP (opc : Nat) (p : Pred) (d a b : Nat) (md : Nat) : Nat := encV opc p d a b 0 false false false 0 0 0 md
def eVL (opc : Nat) (p : Pred) (d imm md : Nat) : Nat := VLF.bits ⟨md, imm, d, p.idx.toNat, bN p.neg, opc⟩
def encM (opc : Nat) (p : Pred) (data base ofs : Nat) (last : Bool) (size space fsel cop : Nat) : Nat :=
  MF.bits ⟨0, cop, fsel, space, size, 0, bN last, ofs, base, data, p.idx.toNat, bN p.neg, opc⟩
def eMem (opc : Nat) (o : Mem) : Nat :=
  encM opc o.p o.data.code o.base.code o.ofs.toNat o.last o.size.code o.space.code o.fsel.code o.cop.code
def eAtom (opc : Nat) (o : Atom) : Nat :=
  encM opc o.p o.data.code o.base.code (o.ord.code * 2 ^ 14 + o.ofs.toNat) false 0 o.space.code o.fsel.code o.ty.code
def eS (s : BitVec 6) : Nat := 0x80 + s.toNat
def eMsg (opc : Nat) (o : Msg) : Nat := encM opc o.p o.data.code (eS o.base) o.ofs.toNat false 2 (if o.sp then 0 else 1) o.fsel.code 0
def eCt : CTags → Nat × Nat × Nat
  | .t0 => (0, 0, 0)
  | .t1 a => (64 + a.toNat, 0, 0)
  | .t2 a b => (64 + a.toNat, 64 + b.toNat, 0)
  | .t3 a b c => (64 + a.toNat, 64 + b.toNat, 64 + c.toNat)
def eX (opc : Nat) (o : XOp) (md : Nat) : Nat :=
  XF.bits ⟨md, 0, (eCt o.ct).2.2, (eCt o.ct).2.1, (eCt o.ct).1, o.ptag.toNat, eS o.dbase, o.p.idx.toNat, bN o.p.neg, opc⟩
def eC (opc : Nat) (p : Pred) (imm sop md : Nat) : Nat := CF.bits ⟨md, sop, imm, p.idx.toNat, bN p.neg, opc⟩
/-- The predicate field 0000. -/
def p0 : Pred := ⟨false, 0#3⟩
def eBr : BrCond → Nat × Nat
  | .nz s => (eS s, 0) | .z s => (eS s, 1) | .neg s => (eS s, 2) | .nneg s => (eS s, 3)
  | .any p => (0, 16 * p.toNat + 4) | .all p => (0, 16 * p.toNat + 5) | .none p => (0, 16 * p.toNat + 6)
def eDst : Option (BitVec 6) → Nat | none => 0xE0 | some s => eS s

/-- The slot value of a slot operation; 0 for an event. -/
def encode : Instr → Nat
  | .nop => 0
  | .fadd o t r s => eB 0x010 o t.code r (satCode s)
  | .fsub o t r s => eB 0x011 o t.code r (satCode s)
  | .fmul o t r s => eB 0x012 o t.code r (satCode s)
  | .fma o t r s => eT 0x013 o t.code r (satCode s)
  | .fms o t r s => eT 0x014 o t.code r (satCode s)
  | .fnma o t r s => eT 0x015 o t.code r (satCode s)
  | .fmin o t => eB 0x016 o t.code .rn 0
  | .fmax o t => eB 0x017 o t.code .rn 0
  | .fcmp o t c => eCmp 0x018 o t.code c.code
  | .fcls o t => eU 0x019 o t.code .rn 0
  | .frnd o t r => eU 0x01A o t.code r 0
  | .fcvt o s d r sat => eCv 0x01B o s.code d.code r (satCode sat)
  | .fdot2 o bf r s => eT 0x01C o (if bf then 2 else 1) r (satCode s)
  | .fscl o t r s => eB 0x01D o t.code r (satCode s)
  | .afcp o => eB 0x01E o 0 .rn 0
  | .frcp o t r => eU 0x020 o t.code r 0
  | .frsq o t r => eU 0x021 o t.code r 0
  | .fsqrt o t r => eU 0x022 o t.code r 0
  | .fex2 o t r => eU 0x023 o t.code r 0
  | .flg2 o t r => eU 0x024 o t.code r 0
  | .fsin o t r => eU 0x025 o t.code r 0
  | .fcos o t r => eU 0x026 o t.code r 0
  | .ftnh o t r => eU 0x027 o t.code r 0
  | .fdiv o t r f => eB 0x028 o t.code r (4 * f.code)
  | .iadd o t s => eB 0x030 o t.code .rn (satCode s)
  | .isub o t s => eB 0x031 o t.code .rn (satCode s)
  | .iadc o w co => eT 0x032 o (wideCode w) .rn (bN co)
  | .imul o t s => eB 0x033 o t.code .rn (satCode s)
  | .imulh o t => eB 0x034 o t.code .rn 0
  | .imad o t s => eT 0x035 o t.code .rn (satCode s)
  | .imin o t => eB 0x036 o t.code .rn 0
  | .imax o t => eB 0x037 o t.code .rn 0
  | .iabs o t s => eU 0x038 o t.code .rn (satCode s)
  | .icmp o t c => eCmp 0x039 o t.code c.code
  | .icvt o s d sat => eCv 0x03A o s.fmt d.fmt .rn (satCode sat)
  | .ftoi o s d r => eCv 0x03B o s.code d.fmt r 0
  | .itof o s d r sat => eCv 0x03C o s.fmt d.code r (satCode sat)
  | .and o t => eB 0x040 o t.code .rn 0
  | .or o t => eB 0x041 o t.code .rn 0
  | .xor o t => eB 0x042 o t.code .rn 0
  | .andn o t => eB 0x043 o t.code .rn 0
  | .shl o t => eB 0x044 o t.code .rn 0
  | .shr o t => eB 0x045 o t.code .rn 0
  | .sar o t => eB 0x046 o t.code .rn 0
  | .rotl o t => eB 0x047 o t.code .rn 0
  | .popc o t => eU 0x048 o t.code .rn 0
  | .clz o t => eU 0x049 o t.code .rn 0
  | .brev o t => eU 0x04A o t.code .rn 0
  | .bfe o t => eT 0x04B o t.code .rn 0
  | .bfi o w => eT 0x04C o (wideCode w) .rn 0
  | .prmb o => eT 0x04D o 4 .rn 0
  | .mov o w => eU 0x050 o (wideCode w) .rn 0
  | .sel o pc w => encV 0x051 o.p o.d.code o.a.op.code o.b.op.code pc.toNat o.a.last o.b.last false (wideCode w) 0 0 0
  | .shuf o w => eB 0x060 o (wideCode w) .rn 0
  | .lbrd o w => eB 0x061 o (wideCode w) .rn 0
  | .rowb o w => eB 0x062 o (wideCode w) .rn 0
  | .colb o w => eB 0x063 o (wideCode w) .rn 0
  | .trns o w => eU 0x064 o (wideCode w) .rn 0
  | .lred o t k op r => eU 0x065 o t.code r (4 * op.code + k.code)
  | .lscn o t e op r => eU 0x066 o t.code r (4 * op.code + bN e)
  | .plog p pd pa pb tt => eP 0x070 p pd.toNat pa.toNat pb.toNat tt.toNat
  | .pmovTp p pd s => eP 0x071 p pd.toNat (eS s) 0 0
  | .pmovFp p sd pa => eP 0x071 p (eS sd) pa.toNat 0 1
  | .pcnt p d pa => eP 0x072 p d.code pa.toNat 0 0
  | .pffs p d pa => eP 0x073 p d.code pa.toNat 0 0
  | .rand p d => eP 0x078 p d.code 0 0 0
  | .movi p d imm sx => eVL 0x200 p d.code imm.toNat (bN sx)
  | .movh p d imm => eVL 0x201 p d.code imm.toNat 0
  | .ld o => eMem 0x010 o
  | .ldX o => eMem 0x011 o
  | .st o => eMem 0x012 o
  | .stX o => eMem 0x013 o
  | .ldb o => eMem 0x014 o
  | .stb o => eMem 0x015 o
  | .ldt o => eMem 0x016 o
  | .stt o => eMem 0x017 o
  | .ldset o => encM 0x018 o.p o.data.code (eS o.base) (o.set.toNat * 256 + o.off.toNat) false 2 0 o.fsel.code o.op.code
  | .atomAdd o => eAtom 0x020 o
  | .atomMin o => eAtom 0x021 o
  | .atomMax o => eAtom 0x022 o
  | .atomAnd o => eAtom 0x023 o
  | .atomOr o => eAtom 0x024 o
  | .atomXor o => eAtom 0x025 o
  | .atomXchg o => eAtom 0x026 o
  | .atomIncw o => eAtom 0x027 o
  | .cas o => eAtom 0x028 o
  | .waita o => encM 0x029 o.p o.data.code (eS o.base) o.ofs.toNat false (if o.wide then 3 else 2) o.space.code o.fsel.code o.tmo.toNat
  | .l1inv p => encM 0x030 p 0 0 0 false 0 0 0 0
  | .fence p sc k f => encM 0x031 p 0 0 0 false sc.code 0 f.code k.code
  | .drain p d f => encM 0x032 p 0 (eDst d) 0 false 0 0 f.code 0
  | .drainRel p d f => encM 0x032 p 0 (eDst d) 0 false 0 0 f.code 2
  | .flush p b ofs l f => encM 0x033 p 0 (eS b) ofs.toNat false 0 (if l then 4 else 1) f.code 0
  | .bpref p t b ofs f => encM 0x034 p t.toNat (eS b) ofs.toNat false 0 1 f.code 0
  | .pref p n b ofs f => encM 0x035 p n.toNat (eS b) ofs.toNat false 0 1 f.code 0
  | .send o => eMsg 0x040 o
  | .recv o => eMsg 0x041 o
  | .cpy o => eX 0x010 o 0
  | .cpyq o => eX 0x011 o 0
  | .cpyo o => eX 0x012 o 0
  | .cpyr o => eX 0x013 o 0
  | .coll o => eX 0x014 o 0
  | .mxq o => eX 0x020 o 0
  | .mxrd o n => eX 0x021 o n.toNat
  | .mxwr o n => eX 0x022 o n.toNat
  | .mxz o => eX 0x023 o 0
  | .mxcrd o => eX 0x024 o 0
  | .mxcwr o => eX 0x025 o 0
  | .br p ofs => eC 0x010 p ofs.toNat 0 0
  | .brc p c ofs => eC 0x011 p ofs.toNat (eBr c).1 (eBr c).2
  | .brv p neg pc ofs j => eC 0x012 p ofs.toNat 0 (16 * j.toNat + 8 * bN neg + pc.toNat)
  | .jmpi p s => eC 0x013 p 0 (eS s) 0
  | .call p s ofs => eC 0x014 p ofs.toNat (eS s) 0
  | .ret p s => eC 0x015 p 0 (eS s) 0
  | .loop s ofs sw rot => eC 0x020 p0 ofs.toNat (eS s) (32 * bN sw + rot.toNat)
  | .lmark n => eC 0x021 p0 0 0 n.toNat
  | .nest s si d n => eC 0x022 p0 0 (eS s) (512 * n.toNat + 8 * si.toNat + d.toNat)
  | .clause w a b => eC 0x030 p0 (2 ^ 12 * w.toNat + 2 ^ 8 * a.toNat + 2 ^ 4 * b.toNat) 0 0
  | .wflg w => eC 0x031 p0 (2 ^ 12 * w.toNat) 0 0
  | .twany s => eC 0x032 p0 0 (eS s) 0
  | .twall s => eC 0x033 p0 0 (eS s) 0
  | .tffr sd s => eC 0x034 p0 0 (eS s) (256 * sd.toNat)
  | .tclr p s => eC 0x035 p 0 (eS s) 0
  | .bar n => eC 0x040 p0 0 0 n.toNat
  | .gbar n => eC 0x041 p0 0 0 n.toNat
  | .sbar n => eC 0x042 p0 n.toNat 0 0
  | .shape p r => eC 0x050 p 0 0 r.toNat
  | .rngix p s => eC 0x051 p 0 (eS s) 0
  | .gets p sd n => eC 0x052 p n.toNat (eS sd) 0
  | .sets p n s => eC 0x053 p n.toNat (eS s) 0
  | .yield => eC 0x060 p0 0 0 0
  | .exit p => eC 0x061 p 0 0 0
  | .launch s => eC 0x062 p0 0 (eS s) 0
  | .node n => eC 0x063 p0 n.toNat 0 0
  | .trap p n => eC 0x070 p n.toNat 0 0
  | .eretReplay => eC 0x071 p0 0 0 0
  | .bkpt p => eC 0x072 p 0 0 0
  | .macroOp p n fs => CF.bits ⟨fs.toNat % 2 ^ 14, fs.toNat / 2 ^ 14 % 2 ^ 8, fs.toNat / 2 ^ 22, p.idx.toNat, bN p.neg, 0x3C0 + n.toNat⟩
  | _ => 0

/-- The 256-bit bundle of four slot operations and a gap (R65). Assumption 62. -/
def encodeBundle (b : Bundle) : Nat :=
  packBits [5, 11, 60, 60, 60, 60] [b.gap.toNat, 0, encode b.v, encode b.m, encode b.x, encode b.c]

/-- The Beyrum word of a slot operation (R78). -/
def encodeWord (k : Slot) (i : Instr) : Nat := packBits [60, 4] [encode i, k.cls]

/-- The first slot of a bundle that holds an operation, or NOP. -/
def Bundle.first (b : Bundle) : Instr :=
  if b.v ≠ .nop then b.v else if b.m ≠ .nop then b.m else if b.x ≠ .nop then b.x else b.c

/-- The instruction the decoder reads from a word of the opcode table: up to 64 bits as a Beyrum word, more as a
bundle (its first filled slot). -/
def decodeTableWord (nbits w : Nat) : Option Instr :=
  if nbits ≤ 64 then decodeWord (w % 2 ^ nbits)
  else match decodeBundle (w % 2 ^ nbits) with
    | .ok b => some b.first
    | .bad _ => none

end Sys2Proof
end

