-- ==== Sys2Proof/Config.lean ====
section
/-! DEFINITION. What an implementation fixes and the free values: constants without a body for every value and
delay the manual leaves open (assumptions 2, 3 and 15), and the fixed figures of Tables 0.2 and 2.4. -/

namespace Sys2Proof.Config

/-- A free natural number for each number drawn: delays of normal mode (R388), choices the device makes. -/
opaque freeNat : Nat → Nat
/-- A free 64-bit value for each number drawn: the content of a latch lane nothing landed in (R52). -/
opaque freeWord : Nat → W64
/-- A free byte for each number drawn. -/
opaque freeByte : Nat → Byte
/-- A free choice for each number drawn: which of two allowed values a race leaves (R163). -/
opaque freeBool : Nat → Bool
/-- The set of its slice a line of L2 goes to, modulo 128: R280 gives the sets, not the line's index. -/
opaque l2Set : Nat → Nat
/-- The set a page goes to in a cluster's TLB, modulo 256 (R293 gives the ways, not the index). -/
opaque tlbSet : Nat → Nat
/-- The management core's signature over a message (R350, R358): keys and algorithm are not given. -/
opaque sign : List Nat → Nat

end Sys2Proof.Config
end

