-- ==== Sys2Proof/Machine/Map.lean ====
section
/-! DEFINITION. Sparse maps as sorted lists of key and value, and total maps with a default that is never
listed: the canonical form of register files and memories. -/

namespace Sys2Proof.Machine

/-- A partial map from numbers, keys strictly rising. -/
abbrev NMap (α : Type) := List (Nat × α)

namespace NMap
variable {α : Type}

/-- The value at a key. -/
def get? : NMap α → Nat → Option α
  | [], _ => none
  | (k, v) :: m, i => if i = k then some v else get? m i

/-- Set the value at a key. -/
def put : NMap α → Nat → α → NMap α
  | [], i, a => [(i, a)]
  | (k, v) :: m, i, a => if i = k then (i, a) :: m else if i < k then (i, a) :: (k, v) :: m else (k, v) :: put m i a

/-- Remove a key. -/
def del : NMap α → Nat → NMap α
  | [], _ => []
  | (k, v) :: m, i => if i = k then del m i else (k, v) :: del m i

/-- Set or remove by an Option. -/
def set? (m : NMap α) (i : Nat) : Option α → NMap α
  | some a => m.put i a
  | none => m.del i

/-- Apply a function to the value at a key, if there is one. -/
def upd (m : NMap α) (i : Nat) (f : α → α) : NMap α :=
  match m.get? i with
  | some a => m.put i (f a)
  | none => m

/-- The keys in rising order. -/
def keys (m : NMap α) : List Nat := m.map (·.1)
/-- The values in order of their keys. -/
def vals (m : NMap α) : List α := m.map (·.2)
/-- Keys strictly rising above a bound. -/
def above : Nat → NMap α → Bool
  | _, [] => true
  | b, (k, _) :: m => decide (b ≤ k) && above (k + 1) m
/-- Canonical form: keys strictly rise. -/
def sorted (m : NMap α) : Bool := above 0 m

/-- A total map with a default: the value at a key. -/
def getD (m : NMap α) (d : α) (i : Nat) : α := (m.get? i).getD d

variable [DecidableEq α]
/-- Set a value of a total map; the default is never listed. -/
def putD (m : NMap α) (d : α) (i : Nat) (a : α) : NMap α := if a = d then m.del i else m.put i a
/-- Canonical form of a total map: keys strictly rise and no entry is the default. -/
def wfD (m : NMap α) (d : α) : Bool := sorted m && m.all (fun e => decide (e.2 ≠ d))

end NMap

/-- Total maps of words, 0 where nothing is listed. -/
abbrev RMap := NMap W64
def RMap.rd (m : RMap) (i : Nat) : W64 := NMap.getD m 0#64 i
def RMap.wr (m : RMap) (i : Nat) (a : W64) : RMap := NMap.putD m 0#64 i a

/-- Total maps of vector elements. -/
abbrev VMap := NMap W32
def VMap.rd (m : VMap) (i : Nat) : W32 := NMap.getD m 0#32 i
def VMap.wr (m : VMap) (i : Nat) (a : W32) : VMap := NMap.putD m 0#32 i a

/-- Memories: total maps of bytes, 0 where nothing is listed (assumption 1). -/
abbrev Memory := List (Nat × Byte)
/-- What an unlisted address reads as. -/
def Memory.unlisted : Byte := 0#8
def Memory.rd (m : Memory) (a : Nat) : Byte := NMap.getD m Memory.unlisted a
def Memory.wr (m : Memory) (a : Nat) (b : Byte) : Memory := NMap.putD m Memory.unlisted a b
/-- The canonical form of a memory. -/
def Memory.wf (m : Memory) : Bool := NMap.wfD m Memory.unlisted

/-- Little-endian value of n bytes from an address (R6). -/
def Memory.load (m : Memory) (a : Nat) : Nat → Nat
  | 0 => 0
  | n + 1 => (m.rd a).toNat + 256 * Memory.load m (a + 1) n
/-- Store n bytes little-endian (R6). -/
def Memory.store (m : Memory) (a : Nat) : Nat → Nat → Memory
  | 0, _ => m
  | n + 1, x => Memory.store (m.wr a (BitVec.ofNat 8 x)) (a + 1) n (x / 256)
/-- Store a list of bytes. -/
def Memory.storeBytes (m : Memory) (a : Nat) : List Byte → Memory
  | [] => m
  | b :: bs => Memory.storeBytes (m.wr a b) (a + 1) bs
/-- Read a list of bytes. -/
def Memory.bytes (m : Memory) (a : Nat) : Nat → List Byte
  | 0 => []
  | n + 1 => m.rd a :: Memory.bytes m (a + 1) n

/-- Little-endian value of a list of bytes. -/
def leNat : List Byte → Nat
  | [] => 0
  | b :: bs => b.toNat + 256 * leNat bs
/-- n little-endian bytes of a value. -/
def natLE : Nat → Nat → List Byte
  | 0, _ => []
  | n + 1, x => BitVec.ofNat 8 x :: natLE n (x / 256)

/-- Lane masks as lists and back. -/
def lanesOf (m : Lanes) : List Nat := (List.range 64).filter (fun i => m.getLsbD i)
def laneMask (p : Nat → Bool) : Lanes := (List.range 64).foldl (fun m i => if p i then m ||| (1#64 <<< i) else m) 0#64
def laneBit (i : Nat) : Lanes := 1#64 <<< i

/-- Update of one element of a list by position. -/
def listSet {α : Type} : List α → Nat → α → List α
  | [], _, _ => []
  | _ :: l, 0, a => a :: l
  | x :: l, n + 1, a => x :: listSet l n a

end Sys2Proof.Machine
end

