-- ==== Sys2Proof/Machine/CoreState.lean ====
section
/-! DEFINITION. The state of splits, waves and cores (Table 2.1, R41 to R55, R61, R136, R160, R188, R232, R245). -/

namespace Sys2Proof.Machine

/-- Where a result goes: register numbers are physical and fixed at issue (R43). Vector registers 128 to 135 and
scalars 64 to 79 are the core's shadow file (R189). `q` names a queue and the ring slot reserved in it. -/
inductive Dest where
  | none
  | v (p0 : Nat) (p1 : Option Nat)
  | s (n : Nat)
  | q (n slot : Nat)
  | p (n : Nat)
  deriving DecidableEq, Repr

/-- A fixed-latency result of the forwarding window (R51, R53), or a predicate result (R44). `out`: it has left the window, so it
writes the bank as it arrives; `old`: the ISN of its split has restarted since; `pc` its bundle, `vas` the addresses a load read, by lane. -/
structure FRes where
  id : Nat
  isn : Nat
  mem : Bool
  rem : Nat
  arrived : Bool
  dest : Dest
  mask : Lanes
  live : Lanes
  wide : Bool
  scalar : Bool
  vals : RMap
  flags : AFlags
  out : Bool := false
  old : Bool := false
  pc : Nat := 0
  vas : NMap Nat := []
  deriving DecidableEq, Repr

/-- A latch of a ring (R51): lanes listed are those something landed in; entry 64 is its scalar result. -/
structure Latch where
  scalar : Bool
  vals : NMap W64
  deriving DecidableEq, Repr

/-- A reconvergence stack entry (R60, Table 2.5). -/
structure StackEnt where
  pc : Nat
  mask : Lanes
  join : Nat
  rejoin : Bool
  deriving DecidableEq, Repr

/-- Nest state (R132, R258): the NEST's PC, body length, induction base, bounds by dimension, visiting order from
outermost to innermost, the current point and the end of the slice. -/
structure Nest where
  pc : Nat
  n : Nat
  si : Nat
  dims : List Nat
  order : List Nat
  lin : Nat
  stop : Nat
  deriving DecidableEq, Repr

/-- A barrier of a block, a gang or a set (R136). -/
inductive BarKey where
  | bar (id : Nat)
  | gbar (id : Nat)
  | sbar (set : Nat)
  deriving DecidableEq, Repr

/-- An arrival: the phase waited for; under DET the issue cycles left to the cluster's opening, and after the opening
those left to the release (R255, R256). -/
structure BarWait where
  key : BarKey
  phase : Nat
  opened : Bool
  rel : Option Nat
  deriving DecidableEq, Repr

/-- A page walk a held bundle waits for: the page's address and the cycles until it returns. -/
structure Walk where
  va : Nat
  rem : Nat
  deriving DecidableEq, Repr

/-- A translation hold (R160), or the walk of an instruction fetch (R295): the gather bitmap and the walks. -/
structure XHold where
  fetch : Bool
  gather : Lanes
  op : Option Nat
  walks : List Walk
  deriving DecidableEq, Repr

/-- A deferred MEMERR or SETFLT (R161, R251); `age` is the number of its operation, by which the oldest is taken first (R187). -/
structure Deferred where
  setflt : Bool
  pc : Nat
  addr : Nat
  lanes : Lanes
  member : Nat
  age : Nat
  deriving DecidableEq, Repr

/-- Beats still claimed on the four engines (R180, R181). -/
structure Claims where
  v : Nat
  sfu : Nat
  m : Nat
  x : Nat
  deriving DecidableEq, Repr

/-- The mark of YIELD (R141): splits still to be selected once, and cycles left. -/
structure YieldMark where
  others : List (Nat × Nat)
  left : Nat
  deriving DecidableEq, Repr

/-- The translated block a split runs natively (R333): the word address of its first op, its code byte address, its ops, and the op last
issued. Op k of a block is its native bundle k (assumption 17). -/
structure NatRun where
  bpc : Nat
  at' : Nat
  len : Nat
  cur : Nat
  deriving DecidableEq, Repr

/-- A split (R41). -/
structure Split where
  num : Nat
  pc : Nat
  mask : Lanes
  age : Nat
  isn : Nat
  gap : Nat
  latV : NMap Latch
  latM : NMap Latch
  win : List FRes
  stack : List StackEnt
  fa : Nat
  fb : Nat
  nest : Option Nest
  claims : Claims
  yield : Option YieldMark
  bar : Option BarWait
  hold : Option XHold
  deferred : List Deferred
  trapn : Option Nat
  bkptOnce : Bool
  mpc : Option Nat
  gather : Lanes
  gatherOp : Option Nat
  nat : Option NatRun := none
  deriving DecidableEq, Repr

/-- Trap causes of Table 7.3. -/
inductive Cause where
  | illop | schedf | splitovf | pcrange | priv | misalign | sprange | winrange | xlate | memerr | setflt | trapn | bkpt | dbltrap
  deriving DecidableEq, Repr

/-- The frozen wave and its trap record (R188, Table 7.4). -/
structure TrapCtx where
  cause : Cause
  arg : Nat
  slot : Nat
  split : Nat
  deferred : Bool
  inMacro : Bool
  pc : Nat
  mpc : Option Nat
  fpc : Nat
  addr : Nat
  info : Nat
  lanes : Lanes
  ctx : Nat
  time : Nat
  resume : W64
  retired : Bool
  started : Bool
  startRem : Nat
  order : Nat
  splits : NMap Split
  drain : List FRes
  rngidx : BitVec 48
  nat : Option NatRun := none
  fnat : Option Nat := none
  deriving DecidableEq, Repr

/-- A wave (Table 2.1). `v` is keyed by 64 times the physical register plus the lane; `icw` lists the bank writes of
the current issue cycle by register, lanes and order of issue (R53). -/
structure Wave where
  uid : Nat
  grid : Nat
  block : Nat
  gang : Nat
  widx : Nat
  lcore : Nat
  priv : Bool
  carried : Bool
  nv : Nat
  ns : Nat
  v : VMap
  s : RMap
  p : RMap
  flags : NMap Nat
  rbase : BitVec 5
  rowlog : BitVec 3
  aflg : AFlags
  rngidx : BitVec 48
  rngseed : W64
  retc : W64
  stalled : W32
  splits : NMap Split
  nextAge : Nat
  drain : List FRes
  trap : Option TrapCtx
  setPhase : NMap Nat
  exited : Bool
  icw : List (Nat × Lanes × Nat)
  deriving DecidableEq, Repr

/-- Where an access goes: a byte of the core's scratchpad (after E of R152), a physical address, or a staging
address. -/
inductive Loc where
  | sp (a : Nat)
  | pa (a : Nat)
  | stg (a : Nat)
  deriving DecidableEq, Repr

/-- One lane's access of a variable-latency operation: it performs as one event when `rem` runs out (R296). `again`: the first
read of a WAITA has been made, or the hold of a RECV has begun; `since`: the tick from which the wait for a response counts (R380, R386). -/
structure Req where
  lane : Nat
  loc : Loc
  va : Nat
  rem : Nat
  data : Nat
  data2 : Nat
  done : Bool
  err : Bool
  val : Nat
  again : Bool := false
  since : Nat := 0
  deriving DecidableEq, Repr

/-- Operations of an atomic (R165, R166). -/
inductive AtomOp where
  | add | min | max | and | or | xor | xchg | incw | cas
  deriving DecidableEq, Repr

/-- The kinds of variable-latency operations (Table 6.3); `idleFence` is a FENCE without an active lane under DET (R184), `acqPart` the
acquire of an atomic (R167). -/
inductive VKind where
  | load (d : Dest) (size : Nat) (c : Bool) (cop : CacheOp)
  | store (size : Nat) (cop : CacheOp)
  | spStore
  | atom (d : Dest) (op : AtomOp) (ty : ATy) (ord : Ord)
  | waita (d : Dest) (cmp : Nat) (size : Nat) (deadline : Option Nat) (every : Nat)
  | fence (scope : Scope) (kind : Ord)
  | idleFence (kind : Ord)
  | acqPart
  | drain (rel : Bool) (dests : List Nat)
  | flush (staging : Bool) (secs : List Nat)
  | bpref (tag : Nat) (secs : List Nat)
  | pref
  | ldset (d : Dest) (set : Nat) (a rot : Nat) (op : SetOp) (mask : Lanes) (retc : W64)
  | fdiv (d : Dest) (vals : RMap) (mask : Lanes) (fl : AFlags)
  | send (d : Dest) (peer ch n : Nat) (sp : Bool) (a rot : Nat)
  | recv (d : Dest) (peer ch n : Nat) (sp : Bool) (a rot : Nat) (got : Option (Nat × List W32))
  | empty
  deriving DecidableEq, Repr

/-- A variable-latency operation in flight (R50), or a scratchpad store that has not performed (R153). `noFill`: an invalidation of
the L1 came after it was sent, so its fills are not installed (R156). `fail`: the error of an LDSET that waits for its padded figure (R251). -/
structure VarOp where
  id : Nat
  wave : Nat
  uid : Nat
  grid : Nat
  split : Nat
  pc : Nat
  handler : Bool
  flag : Option Nat
  rem : Nat
  padded : Bool
  kind : VKind
  reqs : List Req
  noFill : Bool := false
  fail : Nat := 0
  deriving DecidableEq, Repr

/-- An entry of an operand queue: its ring slot, whether it is filled, its 64 elements (R245). -/
structure QEnt where
  slot : Nat
  filled : Bool
  data : VMap
  deriving DecidableEq, Repr

/-- An operand queue: bound wave slot, head position, entries from the head. -/
structure OpQueue where
  bound : Option Nat
  head : Nat
  ents : List QEnt
  deriving DecidableEq, Repr

/-- An L1 sector copy (R156), of a line of .c, of a line marked first for eviction. -/
structure L1Sec where
  c : Bool
  data : List Byte
  cs : Bool := false
  deriving DecidableEq, Repr

/-- A TLB entry (R293). -/
structure TlbEnt where
  part : Nat
  vbase : Nat
  len : Nat
  pbase : Nat
  r : Bool
  w : Bool
  x : Bool
  deriving DecidableEq, Repr

/-- Idle ages of the four engines (R177). -/
abbrev Ages := Claims

/-- A block saved from a core by quantum scheduling (R324). -/
structure SavedBlock where
  grid : Nat
  block : Nat
  waves : NMap Wave
  scratch : Memory
  rows : NMap Bool
  queues : NMap OpQueue
  ops : List VarOp
  tags : W64
  tagerr : W64
  deriving DecidableEq, Repr

/-- How a core or a cluster stands to its own next issue cycle after a hold or a release (R194): in step; `behind` when the hold came between two
of its cycles, so that the next one still counts; `ahead` when its work came back after its last cycle began, so that the next one counts
nothing. -/
inductive Sync where
  | even | behind | ahead
  deriving DecidableEq, Repr

/-- A core (R42, R147, R232, R245, R293). `setNow` holds the tags that operations set in the current issue cycle (R233); `busy` the
beats still claimed by operations whose split has ended or is frozen by a trap (R176, R188);
`lates` the operations under DET whose data comes after their padded cycle (R185); `leaving` the block that quantum scheduling is
saving away (R324). -/
structure Core where
  waves : NMap Wave
  shV : VMap
  shS : RMap
  scratch : Memory
  rows : NMap Bool
  size : Nat
  l1 : NMap L1Sec
  utlb : List TlbEnt
  queues : NMap OpQueue
  tags : W64
  tagerr : W64
  setNow : W64
  watch : List (Nat × Nat)
  ages : Ages
  rot : Option (Nat × Nat)
  hold : Bool
  overrun : Bool
  ops : List VarOp
  grid : Option Nat
  earned : NMap Nat
  saved : List SavedBlock
  kept : NMap VMap
  busy : Claims := { v := 0, sfu := 0, m := 0, x := 0 }
  lates : List Nat := []
  leaving : Option Nat := none
  sync : Sync := .even
  deriving DecidableEq, Repr

end Sys2Proof.Machine
end

