-- ==== Sys2Proof/Machine/ClusterState.lean ====
section
/-! DEFINITION. The state of a cluster's shared machinery (09, 10) and of the memories (13). -/

namespace Sys2Proof.Machine

/-- CLKRATIO: issue cycles against lane cycles (R4). -/
inductive Ratio where
  | half | x1 | x2
  deriving DecidableEq, Repr

/-- A matrix array (R202): words of the two halves keyed by 16384 * half + 128 * row + column, written bits of
half-rows keyed by 256 * half + half-row, carries keyed by 256 * register + 2 * column (+ 1 for the offset). -/
structure MArray where
  acc : VMap
  rows : NMap Bool
  carry : VMap
  cw : NMap Bool
  deriving DecidableEq, Repr

/-- A tile task (R208 to R216): `left` half lane cycles of array time, `pad` the padded count under DET. As in every engine operation, `ctags`
are the tags it consumes and `waits` those that did not read set when its bundle issued (R234). -/
structure Task where
  id : Nat
  core : Nat
  wave : Nat
  uid : Nat
  grid : Nat
  words : List W64
  ptag : Nat
  ctags : List Nat
  regs : NMap W32
  rbase : BitVec 5
  rowlog : BitVec 3
  arr : Option Nat
  left : Nat
  unit : Nat
  pad : Option Nat
  done : Bool
  flags : AFlags
  tile0 : VMap
  carry0 : VMap
  fail : Option (Nat × Nat × Nat × Nat) := none
  waits : List Nat := []
  deriving DecidableEq, Repr

/-- Side-port operations (R227 to R229). -/
inductive SideKind where
  | rd | wr | z | crd | cwr
  deriving DecidableEq, Repr

structure SideOp where
  id : Nat
  core : Nat
  wave : Nat
  uid : Nat
  grid : Nat
  kind : SideKind
  desc : W64
  n : Nat
  regs : List Nat
  data : List (List W32)
  ptag : Nat
  ctags : List Nat
  started : Bool
  rem : Nat
  waits : List Nat := []
  deriving DecidableEq, Repr

/-- An X-slot operation without an active lane (R225). -/
structure EmptyOp where
  id : Nat
  core : Nat
  grid : Nat
  ptag : Nat
  ctags : List Nat
  rem : Option Nat
  waits : List Nat := []
  uid : Nat := 0
  deriving DecidableEq, Repr

/-- Opcodes of Table 10.1 and CPYR, COLL. -/
inductive CopyKind where
  | cpy | cpyq | cpyo | cpyr | coll
  deriving DecidableEq, Repr

/-- A copy command (R239): descriptor words, progress in elements or entries, unit it holds. Under DET: issue cycles it
waited at a due entry, entries taken whose writes are still to perform (R243), and what a COLL's packages answered (R383). `fail`: an error
met under DET, as cause, kind and address, which ends the copy at its padded ic (R243). -/
structure CopyCmd where
  id : Nat
  core : Nat
  wave : Nat
  uid : Nat
  grid : Nat
  kind : CopyKind
  words : List W64
  ptag : Nat
  ctags : List Nat
  unit : Option Nat
  started : Bool
  done : Nat
  rem : Nat
  closed : Bool
  late : Nat
  buf : List (List Byte)
  got : Option (Bool × List Byte)
  waits : List Nat := []
  far : Nat := 0
  since : Nat := 0
  fail : Option (Nat × Nat × Nat) := none
  deriving DecidableEq, Repr

/-- Counts of a cluster's health record (Table 16.6). -/
structure Health where
  retired : Nat
  drift : Nat
  uce : Nat
  ce : Nat
  deriving DecidableEq, Repr

/-- A cluster; `sync` says whether its next issue cycle counts for the work a save took or gave back (R194). -/
structure Cluster where
  ratio : Ratio
  mhz : Nat
  newMhz : Option Nat
  ic : Nat
  due : Nat
  grid : Option Nat
  arrays : NMap MArray
  bind : NMap Nat
  rel : List Nat
  paired : Bool
  winIc : Nat
  tasks : List Task
  sides : List SideOp
  empties : List EmptyOp
  copies : List CopyCmd
  unitStop : List Bool
  tlb : List TlbEnt
  islope : W64
  latS : Nat
  latW : Nat
  boost : W64
  armed : Bool
  denied : Bool
  hot : Bool
  thr : Bool
  health : Health
  seqBad : Bool
  det : Bool
  sync : Sync := .even
  breqNext : Option Bool := none
  deriving DecidableEq, Repr

/-- An L2 sector (R280): dirty, marked first for eviction. -/
structure L2Sec where
  dirty : Bool
  cs : Bool
  deriving DecidableEq, Repr

/-- A line of an L2 slice, by address over 1,024, and its way (R280). -/
structure L2Line where
  num : Nat
  way : Nat
  deriving DecidableEq, Repr

/-- A carrier sector in L2 (R289, R290): 256 bytes and one written bit for each of 128 elements. -/
structure CarrSec where
  data : List Byte
  written : BitVec 128
  deriving DecidableEq, Repr

/-- A format range register triple (Table 13.4). -/
structure Frr where
  a : W64
  b : W64
  c : W64
  deriving DecidableEq, Repr

/-- The memories. `home` is the coherent value of every physical byte (HBM and cistern) at its home; `hbm` is what
the HBM stacks hold, which companion reads without a flush see (R172). `l2` lists the sectors held, `lines` the lines they lie in, the
least recently used first; `draws` counts the choices of the caches. -/
structure Mems where
  home : Memory
  hbm : Memory
  l2 : NMap L2Sec
  rdc : NMap Nat
  stg : Memory
  carr : NMap CarrSec
  frr : NMap Frr
  sstg : NMap W64
  lines : List L2Line := []
  draws : Nat := 0
  deriving DecidableEq, Repr

end Sys2Proof.Machine
end

