-- ==== Sys2Proof/Machine/PartState.lean ====
section
/-! DEFINITION. The state of partitions, contexts and grids (15), of power, energy, health and reset (16), and of
the fabric (18). -/

namespace Sys2Proof.Machine

/-- A barrier of a grid: a block's, a gang's or a set's, by number of the block or gang (0 for a set). -/
structure BarId where
  key : BarKey
  who : Nat
  deriving DecidableEq, Repr

/-- A barrier and the count of its opened phases (R136, R255). -/
structure BarSt where
  id : BarId
  phase : Nat
  deriving DecidableEq, Repr

/-- Where a block stands: waiting, on a core, saved, or ended. -/
inductive BlkSt where
  | waiting
  | on (core : Nat)
  | savedOn (core : Nat)
  | ended
  deriving DecidableEq, Repr

/-- What the package had counted for another one as a launch began: writes sent, messages sent by 64 times the partition plus channel, and
messages taken by channel (R378, R379). -/
structure NetBase where
  sent : Nat
  sseq : NMap Nat
  rseq : NMap Nat
  deriving DecidableEq, Repr

/-- A grid in flight (R313 to R324): its launch record, its placement and completion state. `nest` holds the
bounds and visiting order of a declared nest; `sets` member lists by set number; `gone` the number, block, gang and core
of every wave that has ended; `armed` that the launch latency is over; `net` what had been exchanged with other packages before it. -/
structure Grid where
  id : Nat
  part : Nat
  seq : Nat
  record : List W64
  det : Bool
  nest : Option (List Nat × List Nat)
  sets : NMap (List Nat)
  queues : List (Nat × Nat)
  place : Option (List Nat)
  cores : List Nat
  next : Nat
  gangs : List (Nat × Nat)
  blocks : NMap BlkSt
  nblocks : Nat
  ran : Nat
  err : Nat
  bars : List BarSt
  started : List Nat
  killed : Bool
  armed : Bool
  gone : List (Nat × Nat × Nat × Nat)
  net : NMap NetBase := []
  deriving DecidableEq, Repr

/-- A loaded code section of a partition (R127, R339): first and end code byte address, Beyrum or native. -/
structure CodeSec where
  base : Nat
  len : Nat
  bey : Bool
  deriving DecidableEq, Repr

/-- What a context keeps while another runs (R327 to R329): kind 0 none yet, 1 node, 2 forced, 3 emergency. -/
structure CtxSave where
  kind : Nat
  pc : Nat
  s : RMap
  cmd : Option Wave
  cores : NMap Core
  clusters : NMap Cluster
  grids : List Grid
  seq : Nat
  deriving DecidableEq, Repr

/-- A context of a partition (R327); `bey`: its command stream is of Beyrum words (R312). -/
structure Ctx where
  num : Nat
  entry : W64
  base : W64
  node : Nat
  save : Option CtxSave
  hold : Bool
  bey : Bool := false
  deriving DecidableEq, Repr

/-- A partition (R312, R325). Command registers of Table 15.1 by name; `held` keeps RWD writes (R8); `since` is the time the
running context started, `next` the context that starts next, `saving` the kind of a save under way (R328), `saveRef` the reading it names (R329). -/
structure Part where
  num : Nat
  islands : List Nat
  clusters : List Nat
  cmd : Nat
  wins : List (Nat × Nat)
  cisBase : Nat
  cisLen : Nat
  stage : List Nat
  acc : Nat
  peers : List Nat
  ring : Nat
  ringPos : Nat
  scrub : Option Nat
  lstat : W64
  trapvec : W64
  ctxbase : W64
  slice : W64
  epoch : W64
  overrun : W64
  inva : W64
  invlen : W64
  invBusy : Bool
  quant : W64
  imgdst : W64
  imgload : W64
  imgBusy : Bool
  imgstat : W64
  ptroot : W64
  tcache : W64
  held : NMap W64
  intPend : W64
  codes : List CodeSec
  transl : List NatRun
  ctxs : List Ctx
  run : Option Nat
  since : Nat
  next : Option Nat
  saving : Nat
  node : Nat
  seqLaunch : Nat
  saveSeq : Nat
  thermal : Bool
  busyNs : Nat := 0
  saveRef : Nat := 0
  deriving DecidableEq, Repr

/-- An energy bank (R348): counters, division remainders and commit state. -/
structure EBank where
  total : Nat
  cdyn : Nat
  hbm : Nat
  fab : Nat
  stat : Nat
  unc : Nat
  seq : Nat
  alloc : Nat
  freed : Bool
  gap : Bool
  deriving DecidableEq, Repr

/-- What nonvolatile storage holds: the copy a commit makes (R350, R352), the control store with its version (R332), and the time from
which wear has been measured (R354). -/
structure Nv where
  banks : NMap EBank
  resets : Nat
  health : NMap Health
  cs : Option (Nat × NMap (List Nat)) := none
  dataFrom : Option Nat := none
  deriving DecidableEq, Repr

/-- Power state of the package (R346, R356). -/
inductive PowerSt where
  | off | recovery | on
  deriving DecidableEq, Repr

/-- A UALink station's status register (Table 18.2). -/
structure Station where
  up : Bool
  width : Nat
  degraded : Bool
  retrain : Nat
  eye : Nat
  deriving DecidableEq, Repr

/-- A write held at the ingress behind a marker, or a message that waits behind one or for room in its queue (R377, R380). -/
structure Held where
  src : Nat
  epoch : Nat
  kind : Nat
  addr : Nat
  parts : List UpliPart
  msg : Option (Nat × List W32)
  deriving DecidableEq, Repr

/-- What the ingress and egress keep for another package (R377, R380). -/
structure Peer where
  sentW : Nat
  sentM : Nat
  fence : Nat
  marks : List (Nat × Nat)
  acked : Nat
  held : List Held
  rq : List (Nat × Nat × List W32)
  sseq : NMap Nat
  rseq : NMap Nat
  deriving DecidableEq, Repr

/-- Messages from the package to the driver, the companion and the peers. To a peer: a UPLI request with its station and epoch, its kind and
parts as of a `PeerReq` (R374, R375, R377), a SEND's message (R380), a marker, and a marker's acknowledgement (R377). -/
inductive OutMsg where
  | interrupt (part n : Nat)
  | warn (sensor : Nat)
  | flushDone (addr len : Nat)
  | data (bytes : List Byte)
  | error
  | reading (bytes : List Byte)
  | report (bytes : List Nat)
  | refused (what : Nat)
  | accepted (what : Nat)
  | remote (dst station epoch kind addr : Nat) (parts : List UpliPart)
  | message (dst epoch channel : Nat) (words : List W32)
  | marker (dst count : Nat)
  | markerAck (dst marker : Nat)
  | barfault (grid : Nat)
  | wavefault (grid : Nat)
  | ctxbad (part ctx : Nat)
  deriving DecidableEq, Repr

/-- A sensor (Table 16.2), its fields without the reserved ones. -/
structure Sensor where
  level : Nat
  hyst : Nat
  trip : Nat
  throt : Nat
  warn : Nat
  maxt : Nat
  temp : Nat
  deriving DecidableEq, Repr

/-- The package agents' state (16, 18). -/
structure Pack where
  power : PowerSt
  ns : Nat
  sub : Nat
  slew : Int
  tsync : Nat
  offset : Nat
  holds : Nat
  stepped : Bool
  plim : Nat
  last : Nat
  rearm : Nat
  cap : Nat
  count : Nat
  overLim : Bool
  underLim : Bool
  idle : NMap Nat
  islflr : NMap W64
  sensors : NMap Sensor
  banks : NMap EBank
  unattr : Nat
  rem : NMap Nat
  nv : Nv
  resets : Nat
  eolpred : W64
  csver : W64
  cstore : NMap (List Nat)
  csNext : Option (Nat × List Nat)
  fw : List Nat
  rollback : List Nat
  retired : List Nat
  hinge : Bool
  stations : NMap Station
  peers : NMap Peer
  out : List OutMsg
  saves : List (Nat × List Nat)
  hashes : List Nat := []
  polled : Nat := 0
  hingeEye : Nat := 0
  hbmCe : NMap Nat := []
  served : Bool := false
  areas : NMap CtxSave := []
  xfer : Option Nat := none
  seen : List Nat := []
  deriving DecidableEq, Repr

end Sys2Proof.Machine
end

