-- ==== Sys2Proof/Machine/State.lean ====
section
/-! DEFINITION. The whole state of the machine, the reasons a step can stop, and the state right after reset. -/

namespace Sys2Proof.Machine

/-- The bundle being executed: which split of which wave of which core issued it, its issue sequence number, the
wave and the tags as they stood when its operands were read (R10, R125), the bank penalty (R56), the clause numbers
in force (R75), and the lanes already sent before a hold (R160). -/
structure Issue where
  core : Nat
  wave : Nat
  split : Nat
  bundle : Bundle
  isn : Nat
  pre : Wave
  tags : W64
  tagerr : W64
  pen : Nat
  fa : Nat
  fb : Nat
  gather : Lanes
  gatherOp : Option Nat
  inMacro : Bool
  deriving DecidableEq, Repr

/-- Place within the current issue cycle of a cluster (assumption 11): events still to run, then the next core to serve; `late` the
events that follow the cores; `first` the number from which this cycle's operations count; `done` the waves, by core, that a held bundle has gone on in. -/
structure Cursor where
  cluster : Nat
  nextCore : Nat
  agenda : List Instr
  late : List Instr := []
  first : Option Nat := none
  done : List (Nat × Nat) := []
  deriving DecidableEq, Repr

/-- The machine. `cores` 0 to 767 are core i of cluster c at 8c + i; 768 to 775 are the command cores (R311),
whose clocks are clusters 96 to 103. `inputs` is what the parties outside do and when; `fresh` counts the free
values drawn; `now` is the time in ticks. -/
structure State where
  cores : NMap Core
  clusters : NMap Cluster
  mem : Mems
  parts : NMap Part
  grids : List Grid
  pack : Pack
  nextId : Nat
  now : Nat
  fresh : Nat
  inputs : List (Nat × Instr)
  issue : Option Issue
  cursor : Option Cursor
  deriving DecidableEq, Repr

/-- Why a step stops with a fault. -/
inductive Fault where
  /-- Raised by an instruction row that names a unit the package does not have (a core above 775, a cluster above
  103): no such step of the machine exists. Safe. -/
  | noSuchUnit
  deriving DecidableEq, Repr

/-- Why an instruction has no meaning. -/
inductive Refusal where
  /-- An instruction not modelled yet, by its mnemonic. Safe. -/
  | notModelled (mnemonic : String)
  deriving DecidableEq, Repr

/-- Ticks of a microsecond: every step of the ladder at every ratio has a whole period, and so has a ns (assumption 6). -/
def tpu : Nat := 170136867544000
def Claims.zero : Claims := { v := 0, sfu := 0, m := 0, x := 0 }

/-- A core at reset: arrays scrubbed, nothing resident (R150, R232; assumption 4 for the size). -/
def Core.reset : Core :=
  { waves := [], shV := [], shS := [], scratch := [], rows := [], size := 0, l1 := [], utlb := [], queues := [],
    tags := 0#64, tagerr := 0#64, setNow := 0#64, watch := [], ages := Claims.zero, rot := none, hold := false, overrun := false,
    ops := [], grid := none, earned := [], saved := [], kept := [] }

/-- A matrix array at reset (R202, R207). -/
def MArray.reset : MArray := { acc := [], rows := [], carry := [], cw := [] }

/-- A cluster at reset: ratio x1 at 940 MHz (assumption 4), ISLOPE at S = 16, W = 8 (Table 10.5), BOOST clear
(Table 16.10), health clear (Table 16.6). -/
def Cluster.reset : Cluster :=
  { ratio := .x1, mhz := 940, newMhz := none, ic := 0, due := 0, grid := none,
    arrays := [(0, MArray.reset), (1, MArray.reset), (2, MArray.reset), (3, MArray.reset)], bind := [], rel := [],
    paired := false, winIc := 0, tasks := [], sides := [], empties := [], copies := [], unitStop := [false, false],
    tlb := [], islope := 0x1008#64, latS := 16, latW := 8, boost := 0#64, armed := false, denied := false, hot := false, thr := false,
    health := { retired := 0, drift := 0, uce := 0, ce := 0 }, seqBad := false, det := false }

/-- Thresholds of a sensor at reset (Table 16.2): the first 96 sensors are the clusters', the others HBM's. -/
def Sensor.reset (n : Nat) : Sensor :=
  if n < 96 then { level := 0, hyst := 16, trip := 440, throt := 400, warn := 360, maxt := 0, temp := 0 }
  else { level := 0, hyst := 16, trip := 420, throt := 380, warn := 340, maxt := 0, temp := 0 }

/-- A station at reset (Table 18.2). -/
def Station.reset : Station := { up := false, width := 2, degraded := false, retrain := 0, eye := 0 }

/-- An energy bank before any allocation. -/
def EBank.zero : EBank :=
  { total := 0, cdyn := 0, hbm := 0, fab := 0, stat := 0, unc := 0, seq := 0, alloc := 0, freed := false, gap := false }

/-- The package registers at reset (Tables 16.1, 16.2, 16.7, 16.11, 18.1, 18.2; assumption 4 for the rest). -/
def Pack.reset : Pack :=
  { power := .on, ns := 0, sub := 0, slew := 0, tsync := 0, offset := 0, holds := 0, stepped := false,
    plim := 2000, last := 95, rearm := 8, cap := 64, count := 64, overLim := false, underLim := false, idle := [],
    islflr := (List.range 24).map (fun i => (i, 0x0420#64)),
    sensors := (List.range 128).map (fun i => (i, Sensor.reset i)),
    banks := (List.range 8).map (fun i => (i, EBank.zero)), unattr := 0, rem := [],
    nv := { banks := (List.range 8).map (fun i => (i, EBank.zero)), resets := 0, health := [] }, resets := 0,
    eolpred := 0xFFFFFFFF#64, csver := 0#64, cstore := [], csNext := none, fw := [], rollback := [], retired := [],
    hinge := true, stations := (List.range 4).map (fun i => (i, Station.reset)), peers := [], out := [],
    saves := [] }

/-- The memories at reset: nothing listed, no copy cached, no staging, no format range (Tables 13.2, 13.4). -/
def Mems.reset : Mems :=
  { home := [], hbm := [], l2 := [], rdc := [], stg := [], carr := [],
    frr := (List.range 128).map (fun i => (i, { a := 0#64, b := 0#64, c := 0#64 })),
    sstg := (List.range 128).map (fun i => (i, 0#64)) }

/-- The machine right after reset: every unit at its reset value, no partition, no code, nothing to do but the power
controller's and the energy counters' periodic steps and what the parties outside send (assumption 5). -/
def State.reset : State :=
  { cores := (List.range 776).map (fun i => (i, Core.reset)),
    clusters := (List.range 104).map (fun i => (i, Cluster.reset)),
    mem := Mems.reset, parts := [], grids := [], pack := Pack.reset, nextId := 1, now := 0, fresh := 0, inputs :=
      [(4 * tpu, .boostIntervalBoundary), (100 * tpu, .throttleStep), (100 * tpu, .thermalPoll []), (1000000 * tpu, .energyCommit)],
    issue := none, cursor := none }

end Sys2Proof.Machine
end

