-- ==== Sys2Proof/Machine/Caches.lean ====
section
/-! DEFINITION. Physical memory at its home: the address map, format ranges and carriers, the lines of L2 slices and of the
remote-data caches, staging (R278 to R290). -/

namespace Sys2Proof.Machine

def remoteBit : Nat := 2 ^ 51
def isRemote (pa : Nat) : Bool := decide (remoteBit ≤ pa)
def carrierBase : Nat := 0x1000000000000
def isCarrier (pa : Nat) : Bool := decide (carrierBase ≤ pa) && decide (pa < carrierBase + 0x10000000000)
def cisternBase : Nat := 0x010000000000
/-- Populated local storage: HBM stacks and the cistern (Table 13.1). -/
def populated (pa : Nat) : Bool :=
  (decide (pa < 0x8000000000) && decide (pa % 2 ^ 36 < 48000000000)) ||
  (decide (cisternBase ≤ pa) && decide (pa < cisternBase + 0x400000))

/-- The stack of a storage address. -/
def stackOf (a : Nat) : Nat := a / 2 ^ 36 % 8
/-- Fields of a format range register (Table 13.4). -/
def Frr.en (f : Frr) : Bool := f.a.getLsbD 0
def Frr.sbase (f : Frr) : Nat := bitsNat f.a.toNat 8 44 * 256
def Frr.len (f : Frr) : Nat := (bitsNat f.b.toNat 8 28 + 1) * 256
def Frr.fmt (f : Frr) : Nat := bitsNat f.b.toNat 0 8
def Frr.scbase (f : Frr) : Nat := bitsNat f.c.toNat 3 49 * 8
def Frr.scen (f : Frr) : Bool := f.c.getLsbD 0

/-- The enabled range that holds a storage byte (R286). -/
def Mems.range (m : Mems) (a : Nat) : Option Frr :=
  (m.frr.find? (fun e => e.1 / 16 == stackOf a && e.2.en && decide (e.2.sbase ≤ a) && decide (a < e.2.sbase + e.2.len))).map (·.2)

/-- Variant and precision of a binary8 format code (Table 1.1). -/
def b8Of (c : Nat) : Option (PVar × Nat) :=
  match FFmt.of c with
  | some (.p3109 k p) => some (k, p.toNat)
  | _ => none

/-- The carrier of one element (R289). -/
def carrierOf (k : PVar) (p code scale : Nat) : Nat :=
  if scale = 0xFF ∨ code = p8Nan k then 0x7FC0
  else (roundFmt .bf16 .rn false 0 ((decP8 k p code).scale2 ((scale : Int) - 127))).1
/-- The code a written carrier is stored as (R290). -/
def recode (k : PVar) (p bf scale : Nat) : Nat :=
  if scale = 0xFF then p8Nan k else (encP8 k p true .rn 0 ((decF .bf16 bf).scale2 (127 - (scale : Int)))).1

/-- The scale byte of an element's block. -/
def Mems.scaleOf (m : Mems) (f : Frr) (i : Nat) : Nat := if f.scen then (Memory.rd m.home (f.scbase + i / 32)).toNat else 0x7F

/-- The carrier sector of a carrier address, filled if it is not held (R289). -/
def Mems.carrier (m : Mems) (pa : Nat) : Option (Nat × CarrSec) :=
  let sec := (pa - carrierBase) / 256
  match m.range (sec * 128) with
  | none => none
  | some f =>
    match NMap.get? m.carr sec with
    | some c => some (sec, c)
    | none =>
      match b8Of f.fmt with
      | none => none
      | some (k, p) =>
        some (sec, { written := 0#128, data := (List.range 128).flatMap (fun j =>
          let a := sec * 128 + j
          natLE 2 (carrierOf k p (Memory.rd m.home a).toNat (m.scaleOf f (a - f.sbase)))) })

/-- One byte at its home; none is an error response: a refused carrier or raw access, or nothing there (R288). -/
def Mems.rd (m : Mems) (pa : Nat) : Option Byte :=
  if isCarrier pa then (m.carrier pa).map (fun c => c.2.data.getD ((pa - carrierBase) % 256) 0#8)
  else if populated pa && (m.range pa).isNone then some (Memory.rd m.home pa)
  else none
def Mems.load (m : Mems) (pa : Nat) : Nat → Option Nat
  | 0 => some 0
  | n + 1 => (m.rd pa).bind fun b => (Mems.load m (pa + 1) n).map fun r => b.toNat + 256 * r
/-- Write one byte at its home. -/
def Mems.wr (m : Mems) (pa : Nat) (b : Byte) : Option Mems :=
  if isCarrier pa then
    (m.carrier pa).map (fun c =>
      let o := (pa - carrierBase) % 256
      { m with carr := NMap.put m.carr c.1 { data := listSet c.2.data o b, written := c.2.written ||| (1#128 <<< (o / 2)) } })
  else if populated pa && (m.range pa).isNone then some { m with home := Memory.wr m.home pa b }
  else none
def Mems.store (m : Mems) (pa : Nat) : Nat → Nat → Option Mems
  | 0, _ => some m
  | n + 1, x => (m.wr pa (BitVec.ofNat 8 x)).bind fun m => Mems.store m (pa + 1) n (x / 256)

/-- The sector of an address. -/
def sector (pa : Nat) : Nat := pa / 256

/-! ### Lines of L2 slices and of the remote-data caches (R279 to R285, R290) -/

/-- The home slice of a storage address: 32 to a die (R279). -/
def sliceOf (a : Nat) : Nat :=
  32 * (stackOf a / 2) + ((bitsNat a 10 5) ^^^ (bitsNat a 15 5) ^^^ (bitsNat a 20 5) ^^^ (bitsNat a 25 5))
/-- The storage an address stands for: a carrier is homed where its storage is (R279, R288). -/
def storageOf (pa : Nat) : Nat := if isCarrier pa then (pa - carrierBase) / 2 else pa
/-- Memory that L2 slices and remote-data caches hold: HBM and carrier space (R280, R285). -/
def cached (pa : Nat) : Bool := decide (pa < cisternBase) || isCarrier pa
def sectorSlice (sec : Nat) : Nat := sliceOf (storageOf (sec * 256))
def lineSlice (n : Nat) : Nat := sliceOf (storageOf (n * 1024))
/-- A choice a memory makes, by its own count. -/
def Mems.chose (m : Mems) (n : Nat) : Nat := Config.freeNat (2 ^ 512 + m.draws) % n

/-- Re-encode the written elements of a carrier sector into its storage (R290). -/
def Mems.encode (m : Mems) (sec : Nat) : Mems :=
  match NMap.get? m.carr sec, m.range (sec * 128) with
  | some c, some f =>
    match b8Of f.fmt with
    | some (k, p) =>
      let put (h : Memory) : Memory := (List.range 128).foldl (fun h j =>
        if c.written.getLsbD j then
          let a := sec * 128 + j
          let bf := (c.data.getD (2 * j) 0#8).toNat + 256 * (c.data.getD (2 * j + 1) 0#8).toNat
          Memory.wr h a (BitVec.ofNat 8 (recode k p bf (m.scaleOf f (a - f.sbase))))
        else h) h
      { m with home := put m.home, hbm := put m.hbm }
    | none => m
  | _, _ => m
/-- Write a sector to the HBM stacks and mark it clean; a carrier sector re-encodes (R172, R280, R290). -/
def Mems.clean (m : Mems) (sec : Nat) : Mems :=
  let m := if isCarrier (sec * 256) then m.encode (sec - carrierBase / 256)
    else { m with hbm := (List.range 256).foldl (fun h i => Memory.wr h (sec * 256 + i) (Memory.rd m.home (sec * 256 + i))) m.hbm }
  match NMap.get? m.l2 sec with
  | some l => { m with l2 := NMap.put m.l2 sec { l with dirty := false } }
  | none => m
/-- A sector leaves L2: a dirty one is written back first (R280, R290). -/
def Mems.dropSec (m : Mems) (sec : Nat) : Mems :=
  let m := match NMap.get? m.l2 sec with | some l => if l.dirty then m.clean sec else m | none => m
  { m with l2 := NMap.del m.l2 sec, carr := if isCarrier (sec * 256) then NMap.del m.carr (sec - carrierBase / 256) else m.carr }
/-- A line leaves its way. -/
def Mems.dropLine (m : Mems) (n : Nat) : Mems :=
  let m := (List.range 4).foldl (fun m k => m.dropSec (4 * n + k)) m
  { m with lines := m.lines.filter (fun l => l.num != n) }
/-- A line that .cs marked first for eviction (R155). -/
def Mems.lineCs (m : Mems) (n : Nat) : Bool :=
  (List.range 4).any (fun k => match NMap.get? m.l2 (4 * n + k) with | some l => l.cs | none => false)
/-- Staging bytes of a slice (Table 13.2). -/
def stageBytes (r : W64) : Nat := bitsNat r.toNat 0 2 * 512 * 1024
/-- The first way of a slice that caches: staging takes four ways for each step of WAYS, from way 0 on (R281; assumption 74). -/
def Mems.cacheFrom (m : Mems) (slice : Nat) : Nat := match NMap.get? m.sstg slice with | some r => 4 * bitsNat r.toNat 0 2 | none => 0
/-- A line is used: it is the most recently used of its set. A new one takes a free way, else that of the least recently used line,
lines marked by .cs first (R280; assumption 74). -/
def Mems.use (m : Mems) (n : Nat) : Mems :=
  match m.lines.find? (fun l => l.num == n) with
  | some l => { m with lines := m.lines.filter (fun x => x.num != n) ++ [l] }
  | none =>
    let mates := m.lines.filter (fun l => lineSlice l.num == lineSlice n && Config.l2Set l.num % 128 == Config.l2Set n % 128)
    let ways := (List.range 16).filter (fun w => decide (m.cacheFrom (lineSlice n) ≤ w))
    let victim := if mates.length < ways.length then none
      else match mates.find? (fun l => m.lineCs l.num) with | some v => some v | none => mates.head?
    let m := match victim with | some v => m.dropLine v.num | none => m
    let free := ways.filter (fun w => !(mates.any (fun l => l.way == w && some l != victim)))
    { m with lines := m.lines ++ [{ num := n, way := free.getD (m.chose free.length) 0 }], draws := m.draws + 1 }

/-- L2 and remote-data cache bookkeeping of a write of a sector under a cache operator (Table 6.2, R280, R284). -/
def Mems.noteWrite (m : Mems) (pa : Nat) (cop : CacheOp) : Mems :=
  if !(cached pa) then m
  else
    let sec := sector pa
    let m := { m with rdc := NMap.del m.rdc sec }
    match cop, NMap.get? m.l2 sec with
    | .cn, none => { m.clean sec with carr := if isCarrier pa then NMap.del m.carr (sec - carrierBase / 256) else m.carr }
    | .cs, _ => { m with l2 := NMap.put m.l2 sec { dirty := true, cs := true } }.use (pa / 1024)
    | _, some l => { m with l2 := NMap.put m.l2 sec { l with dirty := true } }.use (pa / 1024)
    | _, none => { m with l2 := NMap.put m.l2 sec { dirty := true, cs := false } }.use (pa / 1024)
/-- Bookkeeping of a read that fills L2; a carrier sector is decoded at its fill (R289). -/
def Mems.noteRead (m : Mems) (pa : Nat) (cop : CacheOp) : Mems :=
  if !(cached pa) || (cop == .cn && (NMap.get? m.l2 (sector pa)).isNone) then m
  else
    (match NMap.get? m.l2 (sector pa) with
      | some _ => m
      | none => { m with l2 := NMap.put m.l2 (sector pa) { dirty := false, cs := cop == CacheOp.cs },
                         carr := if isCarrier pa then (match m.carrier pa with | some c => NMap.put m.carr c.1 c.2 | none => m.carr) else m.carr }).use (pa / 1024)

/-- Sectors a bank of a remote-data cache holds: 16 MiB in 32 banks (R284). -/
def rdcBank : Nat := 2048
/-- A copy leaves a die's remote-data cache. -/
def Mems.rdcDrop (m : Mems) (sec die : Nat) : Mems :=
  { m with rdc := NMap.putD m.rdc 0 sec (NMap.getD m.rdc 0 sec &&& (2 ^ 4 - 1 - 2 ^ die)) }
/-- A die's remote-data cache takes a copy of a sector homed on another die, in the bank of its home slice index; a full bank evicts
one silently. The home slice keeps a presence bit (R284). Assumption 74. -/
def Mems.noteCopy (m : Mems) (pa die : Nat) (cop : CacheOp) : Mems :=
  if !(cached pa) || cop == .cn || die == stackOf (storageOf pa) / 2 || (NMap.getD m.rdc 0 (sector pa)).testBit die then m
  else
    let mates := (m.rdc.filter (fun e => e.2.testBit die && sectorSlice e.1 % 32 == sectorSlice (sector pa) % 32)).map (·.1)
    let m := if mates.length < rdcBank then m else { m.rdcDrop (mates.getD (m.chose mates.length) 0) die with draws := m.draws + 1 }
    { m with rdc := NMap.put m.rdc (sector pa) (NMap.getD m.rdc 0 (sector pa) ||| 2 ^ die) }

/-- Whether a staging address lies in a slice the partition owns (R282). -/
def Mems.stageOk (m : Mems) (part a size : Nat) : Bool :=
  decide (a < 2 ^ 28) &&
  (match NMap.get? m.sstg (a / 2 ^ 21) with
    | some r => bitsNat r.toNat 8 4 == part && decide (a % 2 ^ 21 + size ≤ stageBytes r)
    | none => false)

end Sys2Proof.Machine
end

