-- ==== Sys2Proof/Machine/Ops.lean ====
section
/-! DEFINITION. Named operations over the state: units, free values, registers, memories, translation, results,
flag counts, taking an exception and returning from one (R42 to R58, R150 to R156, R187 to R192, R278 to R295). -/

namespace Sys2Proof.Machine

/-! ### Units -/

/-- The cluster whose clock a core runs on: cores 768 to 775 are the command cores (R311). -/
def clusterOf (core : Nat) : Nat := if core < 768 then core / 8 else core - 672
/-- The die of a core: 24 clusters and two command cores to each (R311). -/
def dieOf (core : Nat) : Nat := if core < 768 then core / 192 else (core - 768) / 2
def validCore (core : Nat) : Bool := decide (core < 776)
def validCluster (c : Nat) : Bool := decide (c < 104)
def isCmdCore (core : Nat) : Bool := decide (768 ≤ core)

def State.core (s : State) (i : Nat) : Core := (NMap.get? s.cores i).getD Core.reset
def State.setCore (s : State) (i : Nat) (c : Core) : State := { s with cores := NMap.put s.cores i c }
def State.updCore (s : State) (i : Nat) (f : Core → Core) : State := s.setCore i (f (s.core i))
def State.cluster (s : State) (i : Nat) : Cluster := (NMap.get? s.clusters i).getD Cluster.reset
def State.setCluster (s : State) (i : Nat) (c : Cluster) : State := { s with clusters := NMap.put s.clusters i c }
def State.updCluster (s : State) (i : Nat) (f : Cluster → Cluster) : State := s.setCluster i (f (s.cluster i))

/-- A wave with no lanes, the value of an empty slot. -/
def Wave.dead : Wave :=
  { uid := 0, grid := 0, block := 0, gang := 0, widx := 0, lcore := 0, priv := false, carried := false, nv := 8, ns := 8,
    v := [], s := [], p := [], flags := [], rbase := 0#5, rowlog := 0#3, aflg := 0#6, rngidx := 0#48, rngseed := 0#64,
    retc := 0#64, stalled := 0#32, splits := [], nextAge := 0, drain := [], trap := Option.none, setPhase := [], exited := true,
    icw := [] }

def State.wave? (s : State) (core w : Nat) : Option Wave := NMap.get? (s.core core).waves w
def State.wave (s : State) (core w : Nat) : Wave := (s.wave? core w).getD Wave.dead
def State.setWave (s : State) (core w : Nat) (x : Wave) : State :=
  s.updCore core (fun c => { c with waves := NMap.put c.waves w x })
/-- Apply a function to a wave, if the slot holds one. -/
def State.updWave (s : State) (core w : Nat) (f : Wave → Wave) : State :=
  s.updCore core (fun c => { c with waves := NMap.upd c.waves w f })

/-- A split at its start: ISN 0, empty window and stack, clause numbers 15 and 15 (R41, R76). -/
def Split.start (num pc : Nat) (mask : Lanes) (age : Nat) : Split :=
  { num := num, pc := pc, mask := mask, age := age, isn := 0, gap := 0, latV := [], latM := [], win := [], stack := [],
    fa := 15, fb := 15, nest := none, claims := Claims.zero, yield := none, bar := none, hold := none, deferred := [],
    trapn := none, bkptOnce := false, mpc := none, gather := 0#64, gatherOp := none }

def Wave.split (w : Wave) (n : Nat) : Split := (NMap.get? w.splits n).getD (Split.start n 0 0#64 0)
def Wave.setSplit (w : Wave) (sp : Split) : Wave := { w with splits := NMap.put w.splits sp.num sp }
def Wave.updSplit (w : Wave) (n : Nat) (f : Split → Split) : Wave := { w with splits := NMap.upd w.splits n f }
/-- The splits of the program, also while the wave is in trap mode (R188). -/
def Wave.own (w : Wave) : NMap Split := match w.trap with | some t => t.splits | none => w.splits
/-- Apply a function to a split of the program, frozen or not. -/
def Wave.updOwn (w : Wave) (n : Nat) (f : Split → Split) : Wave :=
  match w.trap with
  | some t => { w with trap := some { t with splits := NMap.upd t.splits n f } }
  | none => w.updSplit n f
/-- Trap mode: the handler runs (R189). -/
def Wave.inTrap (w : Wave) : Bool := match w.trap with | some t => t.started | none => false
/-- Carried execution: Beyrum words, but for a trap handler, which is native. -/
def Wave.carriedNow (w : Wave) : Bool := w.carried && !w.inTrap
/-- A deferred trap joins those of its split, the oldest bundle's first (R187). -/
def Split.defer (sp : Split) (d : Deferred) : Split :=
  { sp with deferred := sp.deferred.takeWhile (fun x => decide (x.age ≤ d.age)) ++ d :: sp.deferred.dropWhile (fun x => decide (x.age ≤ d.age)) }
/-- The larger claim of each engine (R181). -/
def Claims.max (a b : Claims) : Claims := { v := Nat.max a.v b.v, sfu := Nat.max a.sfu b.sfu, m := Nat.max a.m b.m, x := Nat.max a.x b.x }
/-- The mark of YIELD with other places (R141). -/
def Split.marks (sp : Split) (f : List (Nat × Nat) → List (Nat × Nat)) : Split :=
  { sp with yield := match sp.yield with
      | some m => if (f m.others).isEmpty then none else some { m with others := f m.others }
      | none => none }
/-- The 64 ic of a mark go on whatever holds or saves its split: only what R194 names is frozen (R141). -/
def Split.pass (sp : Split) (n : Nat) : Split := { sp with yield := sp.yield.map (fun y : YieldMark => { y with left := y.left - n }) }
def Wave.pass (w : Wave) (n : Nat) : Wave := { w with splits := w.splits.map (fun e : Nat × Split => (e.1, e.2.pass n)) }
/-- Marks of YIELD of every split of a core, also of those a trap has frozen (R141, R188). -/
def Core.marks (c : Core) (f : List (Nat × Nat) → List (Nat × Nat)) : Core :=
  let all := fun (m : NMap Split) => m.map (fun y => (y.1, y.2.marks f))
  { c with waves := c.waves.map (fun e => (e.1, { e.2 with
      splits := all e.2.splits, trap := e.2.trap.map (fun t : TrapCtx => { t with splits := all t.splits }) })) }
/-- A split that is selected, or gone, leaves the marks of YIELD (R141). -/
def Core.served (c : Core) (x : Nat × Nat) : Core := c.marks (fun l => l.filter (· != x))
/-- A split that merges away stands in the marks under the number of the merged split (R62, R141). -/
def Core.renamed (c : Core) (x y : Nat × Nat) : Core := c.marks (fun l => l.map (fun z => if z = x then y else z))
/-- Beats that splits leave behind go on to claim their engines (R176, R188). -/
def Core.leave (c : Core) (m : NMap Split) : Core := { c with busy := m.foldl (fun a e => a.max e.2.claims) c.busy }

def State.grid? (s : State) (id : Nat) : Option Grid := s.grids.find? (fun g => g.id == id)
def State.updGrid (s : State) (id : Nat) (f : Grid → Grid) : State :=
  { s with grids := s.grids.map (fun g => if g.id = id then f g else g) }
def State.updPart (s : State) (p : Nat) (f : Part → Part) : State := { s with parts := NMap.upd s.parts p f }
def State.updMem (s : State) (f : Mems → Mems) : State := { s with mem := f s.mem }
def State.updPack (s : State) (f : Pack → Pack) : State := { s with pack := f s.pack }
/-- A message of the package to an outside party. -/
def State.emit (s : State) (m : OutMsg) : State := s.updPack (fun p => { p with out := p.out ++ [m] })

/-- The partition of a core: the one whose grid or stream it runs. -/
def State.partOf (s : State) (core : Nat) : Option Part :=
  if isCmdCore core then (s.parts.find? (fun e => e.2.cmd + 768 == core)).map (·.2)
  else (s.parts.find? (fun e => e.2.clusters.contains (core / 8))).map (·.2)

/-- Whether a cluster's issue cycle is the one under way. -/
def State.inCycle (s : State) (cluster : Nat) : Bool := match s.cursor with | some k => k.cluster == cluster | none => false
/-! ### Free values (assumption 2) -/

/-- The next free value's number. -/
def State.take (s : State) (n : Nat) : Nat × State := (s.fresh, { s with fresh := s.fresh + n })
def State.freeNat (s : State) : Nat × State := (Config.freeNat s.fresh, { s with fresh := s.fresh + 1 })
def State.freeBool (s : State) : Bool × State := (Config.freeBool s.fresh, { s with fresh := s.fresh + 1 })
def State.newId (s : State) : Nat × State := (s.nextId, { s with nextId := s.nextId + 1 })

/-! ### Time -/

/-- Ratio of issue cycles: cycles at ×1 doubled at ½ and halved, rounded up, at ×2 (Table 7.2). -/
def Ratio.scale (r : Ratio) (n : Nat) : Nat := match r with | .half => 2 * n | .x1 => n | .x2 => (n + 1) / 2
/-- Half lane cycles in one issue cycle (Table 0.3). -/
def Ratio.halfLc : Ratio → Nat | .half => 1 | .x1 => 2 | .x2 => 4
def State.ratio (s : State) (core : Nat) : Ratio := (s.cluster (clusterOf core)).ratio
def State.isDet (s : State) (core : Nat) : Bool := (s.cluster (clusterOf core)).det && !isCmdCore core
/-- The package time base in ns (R140, R372). -/
def State.timeNs (s : State) : Nat := s.pack.ns

/-! ### Registers -/

/-- Phys of R43. -/
def Wave.phys (w : Wave) (n : Nat) : Nat := if n < 96 then n else 96 + (n - 96 + w.rbase.toNat) % 32
/-- The key of a vector register code: in trap mode v0 to v7 are the shadow file (R189). -/
def Wave.vkey (w : Wave) (n : Nat) : Nat := if w.inTrap && decide (n < 8) then 128 + n else w.phys n
def Wave.skey (w : Wave) (n : Nat) : Nat := if w.inTrap && decide (n < 16) then 64 + n else n
def rdV (c : Core) (w : Wave) (key lane : Nat) : W32 :=
  if 128 ≤ key then VMap.rd c.shV ((key - 128) * 64 + lane) else VMap.rd w.v (key * 64 + lane)
def rdS (c : Core) (w : Wave) (key : Nat) : W64 := if 64 ≤ key then RMap.rd c.shS (key - 64) else RMap.rd w.s key
/-- The scalar a code names. -/
def readS (c : Core) (w : Wave) (n : Nat) : W64 := rdS c w (w.skey n)

/-- Write one lane of a vector register. -/
def State.wrV (s : State) (core w key lane : Nat) (x : W32) : State :=
  if 128 ≤ key then s.updCore core (fun c => { c with shV := VMap.wr c.shV ((key - 128) * 64 + lane) x })
  else s.updWave core w (fun wv => { wv with v := VMap.wr wv.v (key * 64 + lane) x })
def State.wrS (s : State) (core w key : Nat) (x : W64) : State :=
  if 64 ≤ key then s.updCore core (fun c => { c with shS := RMap.wr c.shS (key - 64) x })
  else s.updWave core w (fun wv => { wv with s := RMap.wr wv.s key x })

/-- Predicate n: p0 reads all ones (R44). -/
def Wave.pred (w : Wave) (n : Nat) : Lanes := if n = 0 then BitVec.allOnes 64 else RMap.rd w.p n
/-- Active of R45, over all lanes. -/
def active (w : Wave) (sp : Split) (p : Pred) : Lanes :=
  sp.mask &&& (if p.neg then ~~~ (w.pred p.idx.toNat) else w.pred p.idx.toNat)
/-- Write a predicate in the lanes of a mask; p0 discards (R44). -/
def Wave.setPred (w : Wave) (n : Nat) (mask val : Lanes) : Wave :=
  if n = 0 then w else { w with p := RMap.wr w.p n ((RMap.rd w.p n &&& ~~~ mask) ||| (val &&& mask)) }

/-- Rows and columns of the tile shape (R48). -/
def Wave.rows (w : Wave) : Nat := 2 ^ w.rowlog.toNat
def Wave.cols (w : Wave) : Nat := 64 / w.rows

/-- Special codes of Table 2.3 for a lane. -/
def Wave.special (w : Wave) (n lane : Nat) : W64 :=
  match n with
  | 1 => BitVec.ofNat 64 lane
  | 2 => BitVec.ofNat 64 (lane / w.cols)
  | 3 => BitVec.ofNat 64 (lane % w.cols)
  | 4 => BitVec.ofNat 64 w.widx
  | 5 => BitVec.ofNat 64 w.block
  | 6 => BitVec.ofNat 64 w.lcore
  | _ => 0#64

/-- A lane of a latch; where nothing landed, the free word numbered `fr` (R52, assumption 8). -/
def Latch.rd (l : Latch) (lane fr : Nat) : W64 :=
  if l.scalar then NMap.getD l.vals (Config.freeWord fr) 64 else NMap.getD l.vals (Config.freeWord fr) lane

/-- A lane of a latch position. -/
def ring (m : NMap Latch) (pos lane fr : Nat) : W64 :=
  match NMap.get? m pos with
  | some l => l.rd lane fr
  | none => Config.freeWord fr
/-- The marker of a latch position; one in which nothing has landed counts as scalar, so a scalar operation reads a free value there
and does not trap (DESIGN CHOICE, assumption 8). -/
def ringScalar (m : NMap Latch) (pos : Nat) : Bool := match NMap.get? m pos with | some l => l.scalar | none => true

/-- ReadOp of R57 for one lane: `wide` reads a pair; `fr` numbers the free words of this operand. -/
def readOp (c : Core) (w : Wave) (sp : Split) (o : Opnd) (wide : Bool) (lane fr : Nat) : W64 :=
  match o with
  | .v n =>
    let lo := (rdV c w (w.vkey n.toNat) lane).zeroExtend 64
    if wide then lo ||| ((rdV c w (w.vkey (n.toNat + 1)) lane).zeroExtend 64 <<< 32) else lo
  | .s n => readS c w n.toNat
  | .fv k => ring sp.latV ((sp.isn + 7 - k.toNat) % 8) lane (fr + lane)
  | .fm k => ring sp.latM ((sp.isn + 7 - k.toNat) % 8) lane (fr + lane)
  | .q n =>
    match NMap.get? c.queues n.toNat with
    | some q => match q.ents with
      | e :: _ => (VMap.rd e.data lane).zeroExtend 64
      | [] => 0#64
    | none => 0#64
  | .x n => w.special n.toNat lane

/-! ### Results and the bank -/

/-- Lanes of a register written in this issue cycle by an operation issued later than `id` (R53). Assumption 22. -/
def Wave.later (w : Wave) (key id : Nat) : Lanes :=
  w.icw.foldl (fun m e => if e.1 = key ∧ id < e.2.2 then m ||| e.2.1 else m) 0#64

/-- Write lanes of one vector register into the bank. Assumption 22. -/
def State.bankV (s : State) (core w key : Nat) (mask : Lanes) (id : Nat) (val : Nat → W32) : State :=
  let m := mask &&& ~~~ ((s.wave core w).later key id)
  let s := (lanesOf m).foldl (fun s l => s.wrV core w key l (val l)) s
  s.updWave core w (fun wv => { wv with icw := (key, mask, id) :: wv.icw })

/-- Write a scalar register into the bank. -/
def State.bankS (s : State) (core w key id : Nat) (val : W64) : State :=
  let s := if (s.wave core w).later (1000 + key) id = 0#64 then s.wrS core w key val else s
  s.updWave core w (fun wv => { wv with icw := (1000 + key, BitVec.allOnes 64, id) :: wv.icw })

/-- Write a result to its registers in the lanes of a mask (R53, R57). Values are keyed by lane; 0 is unlisted. -/
def State.bank (s : State) (core w : Nat) (d : Dest) (mask : Lanes) (id : Nat) (vals : RMap) : State :=
  match d with
  | .v p0 p1 =>
    let s := s.bankV core w p0 mask id (fun l => (RMap.rd vals l).truncate 32)
    match p1 with
    | some p => s.bankV core w p mask id (fun l => (RMap.rd vals l >>> 32).truncate 32)
    | none => s
  | .s n => if mask = 0#64 then s else s.bankS core w n id (RMap.rd vals 0)
  | _ => s

/-- Whether two destinations name a common register. Assumption 20. -/
def Dest.meets : Dest → Dest → Bool
  | .v a b, .v c d => a == c || some a == d || b == some c || (b.isSome && b == d)
  | .s a, .s b => a == b
  | _, _ => false

/-- A result that a bundle after it can still make dead: the bundle is one of the next eight (R53). -/
def FRes.near (r : FRes) (isn : Nat) : Bool := !r.old && decide (isn ≤ r.isn + 9)
/-- A write issued now makes the overlapping lanes of results of the last eight bundles dead (R53). Assumption 20. -/
def Split.kill (sp : Split) (d : Dest) (mask : Lanes) : Split :=
  { sp with win := sp.win.map (fun r => if r.dest.meets d && r.near sp.isn then
      { r with live := if r.scalar then (if mask = 0#64 then r.live else 0#64) else r.live &&& ~~~ mask } else r) }

/-- Fill the reserved entry of a queue (R58, R245). -/
def Core.fillQ (c : Core) (n slot : Nat) (mask : Lanes) (vals : RMap) : Core :=
  { c with queues := NMap.upd c.queues n (fun q => { q with ents := q.ents.map (fun e =>
      if e.slot = slot ∧ e.filled = false then
        { e with filled := true, data := (lanesOf mask).foldl (fun d l => VMap.wr d l ((RMap.rd vals l).truncate 32)) [] }
      else e) }) }

/-- Reserve a place in a queue: the ring slot after its entries (R245). -/
def Core.reserveQ (c : Core) (n : Nat) : Nat × Core :=
  match NMap.get? c.queues n with
  | some q =>
    let slot := (q.head + q.ents.length) % 8
    (slot, { c with queues := NMap.put c.queues n { q with ents := q.ents ++ [{ slot := slot, filled := false, data := [] }] } })
  | none => (0, c)

/-- Pop the head entry of a queue (R58). -/
def Core.popQ (c : Core) (n : Nat) : Core :=
  { c with queues := NMap.upd c.queues n (fun q => { q with head := (q.head + 1) % 8, ents := q.ents.tail }) }

/-- Land a result in its latch (R51); a scalar result takes the whole latch (assumption 8), and a result without a lane leaves it
as it is (R88). -/
def landLatch (m : NMap Latch) (r : FRes) : NMap Latch :=
  let pos := r.isn % 8
  let l := (NMap.get? m pos).getD { scalar := false, vals := [] }
  if r.mask = 0#64 then m
  else NMap.put m pos
    (if r.scalar then { scalar := true, vals := [(64, RMap.rd r.vals 0)] }
     else { scalar := false, vals := (lanesOf r.mask).foldl (fun v i => NMap.put v i (RMap.rd r.vals i)) (if l.scalar then [] else l.vals) })

/-- Whether a result goes to a latch: vector, scalar and queue destinations do (R51). -/
def Dest.latched : Dest → Bool | .v _ _ => true | .s _ => true | .q _ _ => true | _ => false

/-- The arrival of a result (R31, R44, R51): flags collected, predicate or queue entry written, latch written. -/
def State.arrive (s : State) (core w split : Nat) (r : FRes) : State :=
  let s := s.updWave core w (fun wv => { wv with aflg := wv.aflg ||| r.flags })
  match r.dest with
  | .p n => s.updWave core w (fun wv => wv.setPred n r.mask (laneMask (fun l => (RMap.rd r.vals l).getLsbD 0)))
  | .q n slot => (s.updCore core (fun c => c.fillQ n slot r.mask r.vals)).updWave core w (fun wv =>
      wv.updSplit split (fun sp => { sp with latV := landLatch sp.latV r }))
  | .none => s
  | _ => s.updWave core w (fun wv => wv.updSplit split (fun sp =>
      if r.mem then { sp with latM := landLatch sp.latM r } else { sp with latV := landLatch sp.latV r }))

/-- Results leave the window: live arrived ones are written now, the others stay with their split until they arrive in their latch
and in the bank (R51, R53). -/
def State.leaveWin (s : State) (core w split : Nat) (leaves : FRes → Bool) : State :=
  let sp := (s.wave core w).split split
  let s := (sp.win.filter (fun r => leaves r && r.arrived)).foldl (fun s r => s.bank core w r.dest r.live r.id r.vals) s
  s.updWave core w (fun wv => wv.updSplit split (fun sp =>
    { sp with win := (sp.win.filter (fun r => !(leaves r && r.arrived))).map (fun r => if leaves r then { r with out := true } else r) }))
/-- Drain of a window (R54). Assumption 38. -/
def State.drainWin (s : State) (core w split : Nat) : State := s.leaveWin core w split (fun _ => true)
/-- The ISN restarts: results on their way belong to bundles before it (R51, R60, R62). -/
def Split.restart (sp : Split) : Split := { sp with isn := 0, win := sp.win.map (fun r : FRes => { r with old := true }) }

/-! ### Flag counts (R50) -/

def Wave.count (w : Wave) (f : Nat) : Nat := NMap.getD w.flags 0 f
def Wave.raise (w : Wave) (f : Option Nat) : Wave :=
  match f with
  | some n => { w with flags := NMap.putD w.flags 0 n (w.count n + 1) }
  | none => w
def Wave.lower (w : Wave) (f : Option Nat) : Wave :=
  match f with
  | some n => { w with flags := NMap.putD w.flags 0 n (w.count n - 1) }
  | none => w

/-! ### Scratchpad (R150 to R153, R162, R163) -/

/-- E of R152. -/
def rotE (a r : Nat) : Nat := a - a % 256 + 4 * ((a / 4 % 64 + r * (a / 256)) % 64) + a % 4

/-- The place of byte k of an access whose first byte stands at e: a rotation moves whole words and stays in the row of 256 bytes,
so a second word past the row's end is the row's first (R152; E of the byte's own address). -/
def rowAt (e k : Nat) : Nat := e / 256 * 256 + (e + k) % 256

/-- A byte of the array: rows never written read zero (R150). -/
def Core.spRaw (c : Core) (e : Nat) : Byte := if (NMap.get? c.rows (e / 256)).isSome then Memory.rd c.scratch e else 0#8
/-- A write of one byte sets its row's written bit. -/
def Core.spPoke (c : Core) (e : Nat) (b : Byte) : Core :=
  { c with scratch := Memory.wr c.scratch e b, rows := NMap.put c.rows (e / 256) true }

/-- The pending store byte a later wave access sees: the newest in issue order (R162). -/
def spPending (ops : List VarOp) (e : Nat) : Option Byte :=
  ops.foldl (fun acc o => match o.kind with
    | .spStore => o.reqs.foldl (fun acc r => match r.loc with
        | .sp a => if a = e ∧ !r.done then some (BitVec.ofNat 8 r.data) else acc
        | _ => acc) acc
    | _ => acc) none

/-- A byte as the core's waves see it, in issue order. -/
def Core.spRd (c : Core) (e : Nat) : Byte := (spPending c.ops e).getD (c.spRaw e)
def Core.spLoad (c : Core) (e : Nat) : Nat → Nat
  | 0 => 0
  | n + 1 => (c.spRd e).toNat + 256 * c.spLoad (rowAt e 1) n

/-- Remove a byte from pending stores: a later access of the issue order has overwritten it. -/
def Core.spForget (c : Core) (older : VarOp → Bool) (e : Nat) : Core :=
  { c with ops := c.ops.map (fun o : VarOp => match o.kind with
      | .spStore => if older o then { o with reqs := o.reqs.filter (fun r => r.loc != .sp e) } else o
      | _ => o) }
/-- A write of an operation that takes effect at its place in the issue order. -/
def Core.spNow (c : Core) (e : Nat) : Nat → Nat → Core
  | 0, _ => c
  | n + 1, x => ((c.spForget (fun _ => true) e).spPoke e (BitVec.ofNat 8 x)).spNow (rowAt e 1) n (x / 256)

/-- A 32-bit word as an engine sees it: a word with a pending wave store shows the old or the new value (R163). -/
def Core.spWordEng (c : Core) (e : Nat) (pick : Bool) : Nat :=
  if pick then c.spLoad e 4
  else (c.spRaw e).toNat + 256 * ((c.spRaw (e + 1)).toNat + 256 * ((c.spRaw (e + 2)).toNat + 256 * (c.spRaw (e + 3)).toNat))
/-- A byte as an engine sees it. -/
def Core.spByteEng (c : Core) (e : Nat) (pick : Bool) : Byte := if pick then c.spRd e else c.spRaw e
/-- An engine write of one byte: against a pending wave store to the word either may land last (R163); one that has performed is older. -/
def Core.spEngWr (c : Core) (e : Nat) (b : Byte) (last : Bool) : Core :=
  Core.spPoke { c with ops := c.ops.map (fun o : VarOp => match o.kind with
      | .spStore => { o with reqs := o.reqs.filter (fun r : Req => r.loc != .sp e || !(last || r.done)) }
      | _ => o) } e b

/-! ### Translation (R291 to R295) -/

inductive Xlat where
  | ok (pa : Nat) (e : TlbEnt)
  | fault (kind : Nat)
  | err
  deriving DecidableEq, Repr

/-- What an access needs of a leaf (Table 13.7). -/
inductive Access where
  | rd | wr | rw | fetch
  deriving DecidableEq, Repr

/-- Remote local addresses from x on that name a target: all but the byte addresses above the cistern (R278). -/
def remoteOk (x len : Nat) : Bool := x / 2 ^ 39 % 4 != 1 || decide (x % 2 ^ 39 + len ≤ 2 ^ 22)
/-- The window test of a leaf: units of HBM, by the storage address, or memory of a peer (R278, R292, R325, R373). -/
def Part.window (p : Part) (pa len : Nat) : Bool :=
  if isRemote pa then p.peers.contains (pa / 2 ^ 41 % 1024) && remoteOk pa len
  else
    let a := if isCarrier pa then (pa - carrierBase) / 2 else pa
    let n := if isCarrier pa then len / 2 else len
    p.wins.any (fun w => decide (w.1 ≤ a) && decide (a + n ≤ w.1 + w.2)) && populated a

def permOk (e : TlbEnt) : Access → Option Nat
  | .rd => if e.r then none else some 1
  | .wr => if e.w then none else some 2
  | .rw => if !e.r then some 1 else if !e.w then some 2 else none
  | .fetch => if e.x then none else some 1

/-- One table entry of a walk: its table, the lowest address bit and the number of bits it indexes by, whether it may
be a leaf, and the walk below it (Tables 13.6 and 13.7, R292). -/
def walkEntry (m : Mems) (p : Part) (va base lo bits : Nat) (leafOk : Bool) (next : Nat → Xlat) : Xlat :=
  match m.load (base + 8 * bitsNat va lo bits) 8 with
  | none => .err
  | some e =>
    let addr := bitsNat e 8 44 * 256
    if bitsNat e 0 1 = 0 ∨ bitsNat e 52 12 ≠ 0 ∨ bitsNat e 5 3 ≠ 0 then .fault 0
    else if bitsNat e 1 1 = 1 then
      if !leafOk || addr % 2 ^ lo != 0 || !(p.window addr (2 ^ lo)) then .fault 0
      else .ok (addr + va % 2 ^ lo)
        { part := p.num, vbase := va - va % 2 ^ lo, len := 2 ^ lo, pbase := addr, r := bitsNat e 2 1 == 1,
          w := bitsNat e 3 1 == 1, x := bitsNat e 4 1 == 1 }
    else next addr

/-- A whole walk without the permission test (R291, R292). -/
def walkAll (m : Mems) (p : Part) (va : Nat) : Xlat :=
  if 2 ^ 48 ≤ va then .fault 3
  else if !(p.ptroot.getLsbD 0) then .fault 0
  else
    walkEntry m p va (bitsNat p.ptroot.toNat 12 40 * 4096) 39 9 false (fun a =>
      if a % 4096 ≠ 0 then .fault 0
      else walkEntry m p va a 30 9 true (fun a =>
        if a % 4096 ≠ 0 then .fault 0
        else walkEntry m p va a 21 9 true (fun a => walkEntry m p va a 16 5 true (fun _ => .fault 0))))

/-- The permission test on a found translation. -/
def checkPerm (x : Xlat) (acc : Access) : Xlat :=
  match x with
  | .ok pa e => match permOk e acc with | none => .ok pa e | some k => .fault k
  | y => y

/-- A translation by a walk of the tables. -/
def translate (m : Mems) (p : Part) (va : Nat) (acc : Access) : Xlat := checkPerm (walkAll m p va) acc

/-- Addresses of the entries a walk reads, from a table on (R291). -/
def walkReads (m : Mems) (va : Nat) : Nat → List (Nat × Nat) → List Nat
  | _, [] => []
  | base, (lo, bits) :: r =>
    let a := base + 8 * bitsNat va lo bits
    a :: (match m.load a 8 with
      | some e => if bitsNat e 0 2 = 1 then walkReads m va (bitsNat e 8 44 * 256) r else []
      | none => [])
/-- A walk of a core's die reads its entries as .cg loads (R284, R293). -/
def State.noteWalk (s : State) (core : Nat) (p : Part) (va : Nat) : State :=
  if 2 ^ 48 ≤ va ∨ p.ptroot.getLsbD 0 = false then s
  else s.updMem (fun m => (walkReads m va (bitsNat p.ptroot.toNat 12 40 * 4096) [(39, 9), (30, 9), (21, 9), (16, 5)]).foldl
    (fun m a => (m.noteRead a .cg).noteCopy a (dieOf core) .cg) m)

/-- The entry of a TLB that maps an address for a partition. -/
def tlbFind (l : List TlbEnt) (part va : Nat) : Option TlbEnt :=
  l.find? (fun e => e.part == part && decide (e.vbase ≤ va) && decide (va < e.vbase + e.len))

/-- The translation a TLB gives an access; none without an entry that permits it, or while the tables are off (R291, R293). -/
def tlbXlat (l : List TlbEnt) (p : Part) (va : Nat) (acc : Access) : Option TlbEnt :=
  if p.ptroot.getLsbD 0 then (tlbFind l p.num va).filter (fun e => (permOk e acc).isNone && decide (va < 2 ^ 48)) else none
def TlbEnt.at (e : TlbEnt) (va : Nat) : Nat := e.pbase + (va - e.vbase)
/-- An entry joins a core's micro-TLB of 64 entries; a full one loses an entry it chooses (R293). Assumption 75. -/
def Core.fillUtlb (c : Core) (e : TlbEnt) (fr : Nat) : Core :=
  let l := c.utlb.filter (· != e)
  { c with utlb := e :: (if l.length < 64 then l else l.eraseIdx (Config.freeNat fr % l.length)) }
def tlbSet (e : TlbEnt) : Nat := Config.tlbSet e.vbase % 256
/-- An entry joins a cluster's TLB of 2,048 entries in 8 ways; a full set loses an entry it chooses (R293). Assumption 75. -/
def Cluster.fillTlb (c : Cluster) (e : TlbEnt) (fr : Nat) : Cluster :=
  let l := c.tlb.filter (· != e)
  let mates := l.filter (fun x => tlbSet x == tlbSet e)
  { c with tlb := e :: (if mates.length < 8 then l else l.filter (fun x => some x != mates[Config.freeNat fr % mates.length]?)) }
/-- Translation of a cluster: by its TLB, else by a walk that fills it; a failed walk leaves nothing (R293, R295). -/
def State.engXlat (s : State) (core : Nat) (p : Part) (va : Nat) (acc : Access) : Xlat × State :=
  match tlbXlat (s.cluster (clusterOf core)).tlb p va acc with
  | some e => (.ok (e.at va) e, s)
  | none =>
    let t := s.noteWalk core p va
    match translate s.mem p va acc with
    | .ok pa e => (.ok pa e, { t.updCluster (clusterOf core) (fun c => c.fillTlb e s.fresh) with fresh := s.fresh + 1 })
    | x => (x, t)

/-- Read n bytes at a virtual address by the tables (engines, loaders); none on any failure. -/
def vaLoad (m : Mems) (p : Part) (va n : Nat) : Option Nat :=
  match translate m p va .rd with
  | .ok pa _ => if isRemote pa then none else m.load pa n
  | _ => none
/-- Write n bytes at a virtual address by the tables; none on any failure. -/
def vaStore (m : Mems) (p : Part) (va n x : Nat) : Option Mems :=
  match translate m p va .wr with
  | .ok pa _ => if isRemote pa then none else (m.store pa n x).map (fun m => m.noteWrite pa .cg)
  | _ => none

/-- Bytes written at a virtual address by the tables; parts that do not translate are dropped (R188, assumption 10).
The list is taken in pieces that end at sector boundaries. -/
def vaStoreBytes (p : Part) : Nat → Mems → Nat → List Byte → Mems
  | 0, m, _, _ => m
  | n + 1, m, va, bs =>
    if bs.isEmpty then m
    else
      let k := 256 - va % 256
      let m := match translate m p va .wr with
        | .ok pa _ => if isRemote pa then m else
            match m.store pa (bs.take k).length (leNat (bs.take k)) with
            | some m => m.noteWrite pa .cg
            | none => m
        | _ => m
      vaStoreBytes p n m (va + k) (bs.drop k)
/-- Bytes read at a virtual address by the tables; none if any does not translate. -/
def vaBytes (m : Mems) (p : Part) : Nat → Nat → Nat → Option (List Byte)
  | 0, _, _ => some []
  | f + 1, va, n =>
    if n = 0 then some []
    else
      let k := min n (256 - va % 256)
      match vaLoad m p va k with
      | some x => (vaBytes m p f (va + k) (n - k)).map (fun r => natLE k x ++ r)
      | none => none

/-! ### Tags (R233, R235) -/

/-- A tag completes: its bit sets, with its error bit when the operation failed. -/
def Core.tagSet (c : Core) (n : Nat) (err : Bool) : Core :=
  { c with tags := c.tags ||| laneBit n, setNow := c.setNow ||| laneBit n, tagerr := if err then c.tagerr ||| laneBit n else c.tagerr }
/-- A tag is cleared with its error bit. -/
def Core.tagClear (c : Core) (mask : W64) : Core := { c with tags := c.tags &&& ~~~ mask, tagerr := c.tagerr &&& ~~~ mask }

/-- A sector joins the L1, which has a frame of 1,024 bytes for each KiB of the 320 that is not scratchpad; a full L1 loses a line,
one marked by .cs first (R147, R155, R156). Assumption 74. -/
def Core.l1Fill (c : Core) (sec : Nat) (x : L1Sec) (fr : Nat) : Core :=
  let lines := ((c.l1.map (fun e => e.1 / 4)).dedup)
  let l1 := if lines.contains (sec / 4) || decide (lines.length < 320 - c.size) then c.l1
    else
      let marked := lines.filter (fun n => c.l1.any (fun e => e.1 / 4 == n && e.2.cs))
      let pool := if marked.isEmpty then lines else marked
      c.l1.filter (fun e => some (e.1 / 4) != pool[Config.freeNat fr % pool.length]?)
  { c with l1 := NMap.put l1 sec x }
/-- The L1 copy that may serve a load. A .g load never takes one that a .c load filled: acquires keep those, so that it could be older than
R300 lets it be (R156). -/
def Core.l1Hit (c : Core) (sec : Nat) (isC : Bool) : Option L1Sec := (NMap.get? c.l1 sec).filter (fun l => isC || !l.c)
/-- A load of .c. -/
def VKind.isC : VKind → Bool | .load _ _ c _ => c | _ => false
/-- Drop every L1 line; `all` drops the lines of .c too. Fills in flight are not installed (R156, R170). -/
def Core.l1Drop (c : Core) (all : Bool) : Core :=
  { c with l1 := if all then [] else c.l1.filter (fun e => e.2.c),
           ops := c.ops.map (fun o : VarOp => { o with noFill := o.noFill || all || !o.kind.isC }) }

/-! ### Taking a trap and returning from one (R187 to R193) -/

/-- Codes of Table 7.3. -/
def Cause.code : Cause → Nat
  | .illop => 1 | .schedf => 2 | .splitovf => 3 | .pcrange => 4 | .priv => 5 | .misalign => 6 | .sprange => 7
  | .winrange => 8 | .xlate => 9 | .memerr => 10 | .setflt => 11 | .trapn => 0x10 | .bkpt => 0x11 | .dbltrap => 0x1F

/-- What a trap carries into its record (Table 7.4): `slot` 0 none, 1 V, 2 M, 3 X, 4 C. -/
structure TrapInfo where
  cause : Cause
  arg : Nat
  slot : Nat
  deferred : Bool
  pc : Nat
  fpc : Nat
  addr : Nat
  info : Nat
  lanes : Lanes
  retired : Bool
  deriving DecidableEq, Repr

/-- A precise trap of the bundle at a PC, with no address. -/
def TrapInfo.at (c : Cause) (slot pc : Nat) : TrapInfo :=
  { cause := c, arg := 0, slot := slot, deferred := false, pc := pc, fpc := pc, addr := 0, info := 0, lanes := 0#64, retired := false }

def ones48 : Nat := 2 ^ 48 - 1
def opt48 (carried : Bool) (pc : Nat) : W64 := BitVec.ofNat 64 (if carried then ones48 else pc % 2 ^ 48)

/-- The native PC of a word of a block. -/
def NatRun.native (r : NatRun) (pc : Nat) : Nat := r.at' / 32 + (pc - r.bpc)
def NatRun.covers (r : NatRun) (pc : Nat) : Bool := decide (r.bpc ≤ pc) && decide (pc < r.bpc + r.len)
/-- How a split of a Beyrum grid or command stream runs now (R333): in native code at the entry of a translated block, and on to its last op
unless it branches away; carried everywhere else, and always in a grid under NOTRANS or DET and with a code cache of size 0.
Assumption 17. -/
def State.nativeAt (s : State) (core : Nat) (w : Wave) (sp : Split) : Option NatRun :=
  let carriedOnly := match s.grid? w.grid with | some g => g.det || (g.record.getD 0 0#64).getLsbD 13 | none => false
  match s.partOf core with
  | some p =>
    if !w.carried || carriedOnly || p.tcache.toNat / 2 ^ 48 % 65536 == 0 then none
    else
      let on := sp.nat.bind (fun r => if (sp.pc == r.cur || sp.pc == r.cur + 1) && r.covers sp.pc then some { r with cur := sp.pc } else none)
      if on.isSome && sp.mpc.isSome then on
      else match p.transl.find? (fun r => r.bpc == sp.pc) with
        | some r => if sp.mpc.isNone then some { r with cur := sp.pc } else none
        | none => on
  | none => none
/-- The native PC of the bundle that issued a deferred operation. -/
def State.nativePc (s : State) (core pc : Nat) : Option Nat :=
  (s.partOf core).bind (fun p => (p.transl.find? (·.covers pc)).map (·.native pc))
/-- The op a native PC stands for. -/
def State.nativeOp (s : State) (core rpc : Nat) : Option NatRun :=
  (s.partOf core).bind (fun p => (p.transl.find? (fun r => decide (r.at' / 32 ≤ rpc) && decide (rpc < r.at' / 32 + r.len))).map
    (fun r => { r with cur := r.bpc + (rpc - r.at' / 32) }))

/-- Registers of the trap record, by number (Table 7.4). -/
def TrapCtx.reg (t : TrapCtx) (beyrum : Bool) (n : Nat) : W64 :=
  let carried := beyrum && t.nat.isNone
  match n with
  | 0x40 => BitVec.ofNat 64 (t.cause.code + 2 ^ 8 * (t.arg % 256) + 2 ^ 16 * t.slot + 2 ^ 19 * t.split + 2 ^ 21 * t.deferred.toNat +
      2 ^ 22 * carried.toNat + 2 ^ 23 * t.inMacro.toNat)
  | 0x41 => (match t.nat with | some r => opt48 false (r.native t.pc) | none => opt48 carried t.pc)
  | 0x42 => opt48 (!beyrum) t.pc
  | 0x43 => match t.mpc with | some m => BitVec.ofNat 64 (2 ^ 63 + m % 2 ^ 16) | none => 0#64
  | 0x44 => (match t.fnat with | some a => opt48 false a | none => opt48 (carried || t.nat.isSome) t.fpc)
  | 0x45 => BitVec.ofNat 64 t.addr
  | 0x46 => BitVec.ofNat 64 t.info
  | 0x47 => t.lanes
  | 0x48 => BitVec.ofNat 64 t.ctx
  | 0x49 => BitVec.ofNat 64 t.time
  | 0x4A => t.resume
  | 0x4B => opt48 (!beyrum) t.fpc
  | _ => 0#64

/-- Position of a number in a list. -/
def indexOf? (l : List Nat) (x : Nat) : Option Nat :=
  match l with
  | [] => none
  | a :: r => if a = x then some 0 else (indexOf? r x).map (· + 1)

/-- Address of a wave's context slot (R193); `ctxSlot` the same from a save base. The wave of command core 768+c has no place in R193: it
takes that of logical cluster 0, core (768+c) mod 8, slot 0 (DESIGN CHOICE, assumption 104). -/
def ctxSlot (base k i w : Nat) : Nat := base + 0x1000 + k * (13656 * 1024) + i * (1632 * 1024) + w * (40 * 1024)
def State.ctxAddr (s : State) (core w : Nat) : Nat :=
  match s.partOf core with
  | some p => ctxSlot p.ctxbase.toNat ((indexOf? p.clusters (core / 8)).getD 0) (core % 8) w
  | none => 0

/-- Ratio and mode bits of a control word (Table 7.5). -/
def Ratio.code : Ratio → Nat | .half => 0 | .x1 => 1 | .x2 => 2
def ctrlWord (kind nv ns : Nat) (det : Bool) (r : Ratio) (seq : Nat) (valid : Bool) : Nat :=
  valid.toNat + 2 * kind + 2 ^ 4 * nv + 2 ^ 12 * ns + 2 ^ 19 * det.toNat + 2 ^ 20 * r.code + 2 ^ 32 * (seq % 2 ^ 32)

/-- The split whose mask and stack entries hold a lane (R193). -/
def ownerOf (m : NMap Split) (lane : Nat) : Option Split :=
  (m.find? (fun e => (e.2.stack.foldl (fun a x => a ||| x.mask) e.2.mask).getLsbD lane)).map (·.2)

/-- A lane of latch position k of a wave: V latches are 0 to 7, M latches 8 to 15 (assumption 10). -/
def latchWord (m : NMap Split) (k lane fr : Nat) : W64 :=
  match ownerOf m lane with
  | some sp => if k < 8 then ring sp.latV k lane fr else ring sp.latM (k - 8) lane fr
  | none => 0#64
/-- A result of the last eight bundles in the window: the latch image has one position for each of them. The result of the bundle before
those, which leaves at the next issue, stands in none (R53, Table 7.5; assumption 10). -/
def FRes.shown (r : FRes) (isn : Nat) : Bool := !r.out && decide (isn ≤ r.isn + 8)
/-- Whether the window still holds a live result of that latch lane; a predicate's result and a discarded one go to no latch (R51, R54). -/
def latchLive (m : NMap Split) (k lane : Nat) : Bool :=
  match ownerOf m lane with
  | some sp => sp.win.any (fun r => r.dest.latched && r.shown sp.isn && r.isn % 8 == k % 8 && r.mem == decide (8 ≤ k) && (if r.scalar then r.live != 0#64 else r.live.getLsbD lane))
  | none => false

/-- The number from which the free fields of a wave's context slot are drawn: the wave and its RETC decide it, so that a lane in which nothing
has landed shows one value, under DET the same in every run (R52, R186; assumption 2). -/
def Wave.slotBase (w : Wave) (det : Bool) : Nat :=
  if det then 2 ^ 576 + 2 ^ 15 * (w.retc.toNat + 2 ^ 64 * (w.widx + 32 * w.block)) else 2 ^ 704 + 2 ^ 15 * (w.retc.toNat + 2 ^ 64 * w.uid)
/-- The free word a slot shows for a latch lane in which nothing has landed. -/
def latchFree (fr k lane : Nat) : Nat := fr + 2048 + 64 * k + lane
/-- n free bytes from number `fr` on (assumption 10: fields whose bits the manual does not place). -/
def freeBytes (fr n : Nat) : List Byte := (List.range n).map (fun i => Config.freeByte (fr + i))
def words8 (l : List W64) : List Byte := l.flatMap (fun x => natLE 8 x.toNat)

/-- Header and latch regions of a wave's context slot (Table 7.5), 10,240 bytes. -/
def ctxHeader (w : Wave) (splits : NMap Split) (rng : BitVec 48) (rec : List W64) (ctrl fr : Nat) : List Byte :=
  natLE 8 ctrl ++ words8 [w.retc, rng.zeroExtend 64, w.rngseed, w.aflg.zeroExtend 64] ++
  natLE 8 (w.rowlog.toNat + 2 ^ 8 * w.rbase.toNat + 2 ^ 32 * w.stalled.toNat) ++ natLE 8 0 ++
  natLE 16 ((List.range 12).foldl (fun a i => a + (w.count i % 64) * 2 ^ (6 * i)) 0) ++
  words8 ((List.range 7).map (fun i => RMap.rd w.p (i + 1))) ++
  freeBytes fr (256 + 512 + 256) ++
  words8 ((List.range 16).map (fun k => laneMask (fun l => latchLive splits k l))) ++
  words8 ((List.range 64).map (fun i => RMap.rd w.s i)) ++
  freeBytes (fr + 1024) 128 ++ words8 rec ++
  words8 ((List.range 16).flatMap (fun k => (List.range 64).map (fun l => latchWord splits k l (latchFree fr k l))))

/-- Set a grid's error, the first one standing (Table 15.4). -/
def State.gridErr (s : State) (id code : Nat) : State := s.updGrid id (fun g => if g.err = 0 then { g with err := code } else g)

/-- A cluster's uncorrectable errors, saturating (Table 16.6): those of its scratchpads and engines and the failures of its shared machinery
(R161, R223, R251, R259, R353; assumption 98). -/
def State.countUce (s : State) (cluster : Nat) : State :=
  s.updCluster cluster (fun cl => { cl with health := { cl.health with uce := Nat.min 65535 (cl.health.uce + 1) } })

/-! ### Barriers a wave takes part in (R136, R256) -/

/-- The barrier of a grid an arrival names: by block, gang, or set. -/
def barId (key : BarKey) (w : Wave) : BarId :=
  match key with
  | .bar _ => { key := key, who := w.block }
  | .gbar _ => { key := key, who := w.gang }
  | .sbar _ => { key := key, who := 0 }
/-- Phases of a barrier that have opened. -/
def Grid.opened (g : Grid) (id : BarId) : Nat := ((g.bars.find? (fun b => b.id == id)).map (·.phase)).getD 0
/-- A set of the grid that has members, and whether a logical core is one (R136, R247). -/
def Grid.member (g : Grid) (set lcore : Nat) : Bool := match NMap.get? g.sets set with | some l => l.contains lcore | none => false
/-- A wave takes part in a barrier. Assumption 57. -/
def Grid.joins (g : Grid) (id : BarId) (w : Wave) : Bool :=
  w.grid == g.id && (match id.key with
    | .bar _ => w.block == id.who
    | .gbar _ => w.gang == id.who
    | .sbar n => g.member n w.lcore)
/-- A split waits for the phase. -/
def Split.waits (sp : Split) (key : BarKey) (phase : Nat) : Bool :=
  match sp.bar with | some b => b.key == key && !b.opened && b.phase == phase | none => false
/-- A wave has arrived when each of its live splits has, or it has exited. -/
def Wave.arrived (w : Wave) (key : BarKey) (phase : Nat) : Bool := w.exited || w.own.all (fun e => e.2.waits key phase)
def BarKey.far : BarKey → Bool | .bar _ => false | _ => true
/-- Every split of a core that waits at a barrier counts its opening from a new arrival, also one that a trap has frozen (R136, R256). -/
def Core.resetBar (c : Core) (grid : Nat) (id : BarId) (n : Nat) : Core :=
  let again := fun (sp : Split) => match sp.bar with
    | some b => if b.key = id.key ∧ !b.opened then { sp with bar := some { b with rel := some n } } else sp
    | none => sp
  { c with waves := c.waves.map (fun e =>
      if e.2.grid = grid ∧ (barId id.key e.2) = id then (e.1, e.2.own.keys.foldl (fun w k => w.updOwn k again) e.2) else e) }
/-- A far barrier of a DET grid counts 2,000 ic at x1 from the last arrival among a cluster's own waves (R256). -/
def State.countFrom (s : State) (g : Grid) (core : Nat) (id : BarId) : State :=
  let n := (s.ratio core).scale 2000
  (List.range 8).foldl (fun s k => s.updCore (core / 8 * 8 + k) (fun c => c.resetBar g.id id n)) s
/-- A split of a wave has ended: the barriers at which the wave has arrived with that count from now (R136, R256). -/
def State.countEnd (s : State) (core w : Nat) : State :=
  let wv := s.wave core w
  match s.grid? wv.grid with
  | some g => if g.det then g.bars.foldl (fun s b =>
      if b.id.key.far && g.joins b.id wv && wv.arrived b.id.key b.phase then s.countFrom g core b.id else s) s else s
  | none => s

/-! ### The cycle a precise trap gives back (R185, R190, R192)

A bundle that could issue in the cycle of the trap issues in the cycle after ERET, which stands for it: what counted down for its split
in that cycle counts it again. So it is for every split of the wave whose gap has passed, and for every wave of a DET core. -/

def FRes.tick (r : FRes) : FRes := if r.arrived then r else { r with rem := r.rem - 1 }
def BarWait.tick (b : BarWait) : BarWait := { b with rel := b.rel.map (· - 1) }
def Claims.tick (a : Claims) : Claims := { v := a.v - 1, sfu := a.sfu - 1, m := a.m - 1, x := a.x - 1 }
def FRes.untick (r : FRes) : FRes := if r.arrived then r else { r with rem := r.rem + 1 }
def BarWait.untick (b : BarWait) : BarWait := { b with rel := b.rel.map (· + 1) }
def Claims.untick (c : Claims) : Claims := { v := c.v + 1, sfu := c.sfu + 1, m := c.m + 1, x := c.x + 1 }
/-- Assumption 29. -/
def Split.untick (sp : Split) (det : Bool) : Split :=
  { sp with gap := sp.gap + 1, win := sp.win.map FRes.untick, claims := sp.claims.untick, bar := if det then sp.bar.map BarWait.untick else sp.bar }
/-- Every split of a wave, and its results on their way to the bank. -/
def Wave.untick (w : Wave) (det : Bool) : Wave :=
  { w with splits := w.splits.map (fun e : Nat × Split => (e.1, e.2.untick det)), drain := w.drain.map FRes.untick }
/-- A result on its way in some of its lanes; a scalar one stays whole. -/
def FRes.inLanes (r : FRes) (m : Lanes) : FRes := if r.scalar then r else { r with mask := r.mask &&& m, live := r.live &&& m }
/-- Lanes that splits whose gap has not passed own. -/
def Wave.gapLanes (w : Wave) : Lanes :=
  w.splits.foldl (fun m e => if e.2.gap = 0 then m else e.2.stack.foldl (fun a x => a ||| x.mask) (m ||| e.2.mask)) 0#64
/-- At a trap outside DET: the splits whose gap has passed; `all` when that is so of the split that traps. What such a split has on its way to
lanes that another split has taken over since (R60) keeps its time if that split's gap has not passed (R192). -/
def Wave.giveBack (w : Wave) (all : Bool) : Wave :=
  let m := w.gapLanes
  let parts := fun (r : FRes) => !r.arrived && !r.scalar && (r.mask &&& m) != 0#64
  { w with splits := w.splits.map (fun e : Nat × Split => (e.1,
             if e.2.gap = 0 then { e.2 with win := e.2.win.map (fun r => if parts r then r.inLanes (~~~ m) else r) }.untick false else e.2)),
           drain := (if all then w.drain.map FRes.untick else w.drain) ++
             w.splits.flatMap (fun e => if e.2.gap = 0 then (e.2.win.filter parts).map (fun r => r.inLanes m) else []) }
/-- A deadline under DET moves with the hold of its core (R185). -/
def VKind.later : VKind → VKind
  | .waita d c z dl e => .waita d c z (dl.map (· + 1)) e
  | k => k
def VarOp.untick (o : VarOp) : VarOp :=
  if o.handler then o
  else { o with kind := o.kind.later, rem := o.rem + 1, reqs := o.reqs.map (fun r : Req => if r.done then r else { r with rem := r.rem + 1 }) }
/-- The cycle given back to a DET core and to its operations in the engines. Assumption 29. Assumption 30. -/
def State.untickCore (s : State) (core : Nat) : State :=
  (s.updCore core (fun c => { c with waves := c.waves.map (fun e : Nat × Wave => (e.1, e.2.untick true)), ops := c.ops.map VarOp.untick, busy := c.busy.untick })).updCluster
    (clusterOf core) (fun cl => { cl with
      tasks := cl.tasks.map (fun t : Task => if t.core = core then { t with pad := t.pad.map (· + 1) } else t),
      sides := cl.sides.map (fun o : SideOp => if o.core = core ∧ o.started then { o with rem := o.rem + 1 } else o),
      empties := cl.empties.map (fun o : EmptyOp => if o.core = core then { o with rem := o.rem.map (· + 1) } else o),
      copies := cl.copies.map (fun o : CopyCmd => if o.core = core ∧ o.started then
        (if 0 < o.late then { o with late := o.late - 1 } else { o with rem := o.rem + 1 }) else o) })
/-- The cycle taken back: what `State.untickCore` gave a DET core counts, where a save holds the core past its trap mode. The core then
stands as any held one does, with its next cycle counted and its issue still to come, so the save shows nothing (R185, R194). -/
def VarOp.retick (o : VarOp) : VarOp :=
  if o.handler then o
  else { o with
    kind := (match o.kind with | .waita d c z dl e => .waita d c z (dl.map (· - 1)) e | k => k),
    rem := o.rem - 1, reqs := o.reqs.map (fun r : Req => if r.done then r else { r with rem := r.rem - 1 }) }
def Split.retick (sp : Split) : Split :=
  { sp with gap := sp.gap - 1, win := sp.win.map FRes.tick, claims := sp.claims.tick, bar := sp.bar.map BarWait.tick }
def Wave.retick (w : Wave) : Wave :=
  { w with splits := w.splits.map (fun e : Nat × Split => (e.1, e.2.retick)), drain := w.drain.map FRes.tick }
def State.retickCore (s : State) (core : Nat) : State :=
  (s.updCore core (fun c => { c with waves := c.waves.map (fun e : Nat × Wave => (e.1, e.2.retick)), ops := c.ops.map VarOp.retick, busy := c.busy.tick })).updCluster
    (clusterOf core) (fun cl => { cl with
      tasks := cl.tasks.map (fun t : Task => if t.core = core then { t with pad := t.pad.map (· - 1) } else t),
      sides := cl.sides.map (fun o : SideOp => if o.core = core ∧ o.started then { o with rem := o.rem - 1 } else o),
      empties := cl.empties.map (fun o : EmptyOp => if o.core = core then { o with rem := o.rem.map (· - 1) } else o),
      copies := cl.copies.map (fun o : CopyCmd => if o.core = core ∧ o.started then
        (if o.rem = 0 then { o with late := o.late + 1 } else { o with rem := o.rem - 1 }) else o) })
/-- Trap mode has ended on a core. -/
def State.takeBack (s : State) (core : Nat) : State :=
  if s.isDet core && (s.core core).hold && (s.core core).waves.all (fun e => e.2.trap.isNone) then s.retickCore core else s

/-! ### Traps in trap mode -/

/-- A trap in trap mode: the wave ends at once and its grid reports WAVEFAULT (R189). -/
def State.dblTrap (s : State) (core w : Nat) : State :=
  let g := (s.wave core w).grid
  (((((s.updCore core (fun c => c.leave (s.wave core w).splits)).updWave core w (fun wv =>
    { wv with splits := [], drain := [], trap := none, exited := true })).takeBack core).countEnd core w).gridErr g 0x10).emit (.wavefault g)

/-- A split of a wave traps (R188): the wave's splits, results in flight and random index are frozen, the trap record
is set, the context slot is written, and the wave waits for its handler. In trap mode it is a DBLTRAP. Assumption 28. -/
def State.takeTrap (s : State) (core w split : Nat) (t : TrapInfo) : State :=
  let wv := s.wave core w
  if wv.trap.isSome then s.dblTrap core w
  else
    let det := s.isDet core
    let s := if det then s.untickCore core else s.updCore core (fun c => c.leave wv.splits)
    let wv := if det then wv.untick true else wv.giveBack ((wv.split split).gap == 0)
    let frozen := wv.splits.map (fun e => (e.1, { e.2 with hold := none }))
    let rem := Config.freeNat s.fresh
    let run := s.nativeAt core wv (wv.split split)
    let c : TrapCtx :=
      { cause := t.cause, arg := t.arg, slot := t.slot, split := split, deferred := t.deferred,
        inMacro := ((wv.split split).mpc).isSome, pc := t.pc, mpc := (wv.split split).mpc, fpc := t.fpc, addr := t.addr,
        info := t.info, lanes := t.lanes, ctx := s.ctxAddr core w, time := s.timeNs, resume := 0#64, retired := t.retired,
        started := false, startRem := rem, order := (s.cluster (clusterOf core)).ic, splits := frozen, drain := wv.drain,
        rngidx := wv.rngidx, nat := run, fnat := if run.isSome then s.nativePc core t.fpc else none }
    let s := { s with fresh := s.fresh + 1 }
    let s := s.setWave core w { wv with trap := some c, splits := [], drain := [] }
    match s.partOf core with
    | none => s
    | some p =>
      let ctrl := ctrlWord 1 wv.nv wv.ns (s.isDet core) (s.ratio core) p.saveSeq true
      let bytes := ctxHeader wv frozen wv.rngidx ((List.range 16).map (fun i => c.reg wv.carried (0x40 + i))) ctrl (wv.slotBase (s.isDet core))
      s.updMem (fun m => vaStoreBytes p 64 m c.ctx bytes)

/-- The handler of a frozen wave starts: one split, all lanes, ISN 0, at the trap vector (R188). -/
def State.startHandler (s : State) (core w : Nat) : State :=
  let pc := match s.partOf core with | some p => bitsNat p.trapvec.toNat 0 48 | none => 0
  s.updWave core w (fun wv => match wv.trap with
    | some t => { wv with trap := some { t with started := true }, splits := [(0, Split.start 0 pc (BitVec.allOnes 64) 0)] }
    | none => wv)

/-- Every lane of a wave exits: the windows drain and the wave has no split (R191 action 10, R142). -/
def State.exitWave (s : State) (core w : Nat) : State :=
  let s := ((s.wave core w).splits.keys).foldl (fun s n => s.drainWin core w n) s
  ((s.updCore core (fun c => c.leave (s.wave core w).splits)).updWave core w (fun wv =>
    { wv with splits := [], exited := true, drain := wv.drain ++ wv.splits.flatMap (fun e => e.2.win) })).countEnd core w

/-- The latches of a split as the latch image of a context slot gives them in the lanes it owns. A lane in which nothing has landed stays so,
unless its word in the slot is no longer the free one (`free`) that the slot showed; a latch in which nothing has landed stays so
(R186; assumption 10). -/
def reloadRing (m : NMap Latch) (own : Lanes) (img free : Nat → Nat → W64) : NMap Latch :=
  m.map (fun e => (e.1,
    if e.2.scalar then { e.2 with vals := [(64, img e.1 ((lanesOf own).headD 0))] }
    else { e.2 with vals := (lanesOf own).foldl (fun v l =>
      if (NMap.get? e.2.vals l).isSome || img e.1 l != free e.1 l then NMap.put v l (img e.1 l) else v) e.2.vals }))
/-- Latches and liveness of a frozen split as its context slot holds them (R190, Table 7.5). -/
def Split.reload (sp : Split) (fr : Nat) (img : Nat → Nat → W64) (live : Nat → Lanes) : Split :=
  let own := sp.stack.foldl (fun a x => a ||| x.mask) sp.mask
  { sp with
    latV := reloadRing sp.latV own img (fun k l => Config.freeWord (latchFree fr k l)),
    latM := reloadRing sp.latM own (fun k => img (8 + k)) (fun k l => Config.freeWord (latchFree fr (8 + k) l)),
    win := sp.win.map (fun r : FRes =>
      let l := live (r.isn % 8 + (if r.mem then 8 else 0))
      if !(r.shown sp.isn) || !r.dest.latched then r
      else if r.scalar then (if l &&& own = 0#64 then { r with live := 0#64 } else r)
      else { r with live := (r.live &&& ~~~ own) ||| (l &&& own &&& r.mask) }) }
/-- Little-endian word n of a list of bytes. -/
def byteWord (bs : List Byte) (n : Nat) : W64 := BitVec.ofNat 64 (leNat ((bs.drop (8 * n)).take 8))
/-- The frozen splits of a wave, reloaded from its context slot where the slot can be read (R190). Assumption 10. -/
def State.reloadSplits (s : State) (core fr : Nat) (t : TrapCtx) : NMap Split :=
  match s.partOf core with
  | none => t.splits
  | some p =>
    match vaBytes s.mem p 4 (t.ctx + 0x480) 128, vaBytes s.mem p 64 (t.ctx + 0x800) 8192 with
    | some lv, some im =>
      let words := (List.range 1024).map (byteWord im)
      t.splits.map (fun e => (e.1, e.2.reload fr (fun k l => words.getD (64 * k + l) 0#64) (byteWord lv)))
    | _, _ => t.splits
/-- Return from a trap (R145, R190, R191): the windows of the handler's splits drain, the frozen state stands again, and the action of
TRESUME is carried out: 0 replay, 1 resume at RPC, 2 end the wave. A bundle that retired keeps its split's gap (R191). RPC of a split
that ran translated code is a native PC; one in no block is outside the code. -/
def State.returnTrap (s : State) (core w action : Nat) : State :=
  match (s.wave core w).trap with
  | none => s
  | some t =>
    let back := s.reloadSplits core ((s.wave core w).slotBase (s.isDet core)) t
    let s := (s.wave core w).splits.keys.foldl (fun s n => s.drainWin core w n) s
    let s := (s.updCore core (fun c => c.leave (s.wave core w).splits)).updWave core w (fun wv => { wv with
      splits := back, drain := t.drain ++ wv.drain ++ wv.splits.flatMap (fun e => e.2.win), rngidx := t.rngidx, trap := none })
    let s := s.takeBack core
    match action with
    | 0 => s.updWave core w (fun wv => wv.updSplit t.split (fun sp => { sp with bkptOnce := sp.bkptOnce || t.cause == .bkpt }))
    | 1 =>
      let rpc := bitsNat t.resume.toNat 2 48
      let run := if t.nat.isSome then s.nativeOp core rpc else none
      let rpc := match run with | some r => r.cur | none => if t.nat.isSome then 2 ^ 60 + rpc else rpc
      s.updWave core w (fun wv => wv.updSplit t.split (fun sp =>
        { sp with pc := rpc, nat := run, gap := if t.retired then sp.gap else 0, mpc := none, bkptOnce := false, gather := 0#64, gatherOp := none }))
    | _ => s.exitWave core w

end Sys2Proof.Machine
end

