-- ==== Sys2Proof/Machine/Flags.lean ====
section
/-! DEFINITION. Figures and flags: latencies and beats (Tables 4.2 and 7.1), deterministic padding (Table 7.2), the
arithmetic flags (Table 1.4), completion-flag selects (R75), and the status words an instruction can read (Table 5.3). -/

namespace Sys2Proof.Machine

def tpNs : Nat := 170136867544
/-- Ticks of one issue cycle at a lane clock (Table 0.3). -/
def icTicks (r : Ratio) (mhz : Nat) : Nat := tpu * r.halfLc / (2 * mhz)

/-- Latency of a class of V-slot operations in issue cycles (Table 7.1). -/
def vLat (r : Ratio) (c : VClass) : Nat :=
  match c, r with
  | .int, .half => 4 | .int, .x1 => 2 | .int, .x2 => 1
  | .fp, .half => 8 | .fp, .x1 => 4 | .fp, .x2 => 2
  | .xl, .half => 12 | .xl, .x1 => 6 | .xl, .x2 => 3
  | .rand, .half => 8 | .rand, .x1 => 4 | .rand, .x2 => 2
  | .sfu, .half => 24 | .sfu, .x1 => 12 | .sfu, .x2 => 6
  | .fsqrt, .half => 28 | .fsqrt, .x1 => 14 | .fsqrt, .x2 => 7
  | .fdiv, _ => 0

/-- Beats of a class on its engine (Table 7.1). -/
def vBeats (r : Ratio) (c : VClass) : Nat :=
  match c, r with
  | .sfu, .half => 8 | .sfu, .x1 => 4 | .sfu, .x2 => 2
  | .fsqrt, .half => 8 | .fsqrt, .x1 => 4 | .fsqrt, .x2 => 2
  | .fdiv, .half => 16 | .fdiv, .x1 => 8 | .fdiv, .x2 => 4
  | _, .half => 2 | _, .x1 => 1 | _, .x2 => 1

/-- Whether a class runs on the special-function unit. -/
def onSfu : VClass → Bool | .sfu => true | .fsqrt => true | .fdiv => true | _ => false

/-- Rows of Table 7.2 whose figure does not depend on operands. -/
inductive PadRow where
  | load | store | atomG | ldset | fdiv | pref | ldx | stx | atomS
  deriving DecidableEq, Repr

/-- Deterministic padding (Table 7.2). -/
def padFig (r : Ratio) : PadRow → Nat
  | .load => r.scale 1200
  | .store => r.scale 1200
  | .atomG => r.scale 1600
  | .ldset => r.scale 900
  | .fdiv => r.scale 40
  | .pref => r.scale 1200
  | .ldx => 72
  | .stx => 68
  | .atomS => 140
/-- The figure of FLUSH and BPREF over n sectors (Table 7.2). -/
def padRange (r : Ratio) (n : Nat) : Nat := r.scale (1200 + 4 * n)

/-- The clause flag an operation selects under the numbers in force; 15 is none (R75). -/
def Issue.flagOf (i : Issue) : FSel → Option Nat
  | .none => none
  | .a => if i.fa = 15 then none else some i.fa
  | .b => if i.fb = 15 then none else some i.fb
/-- A select whose number is 15 traps with ILLOP at issue (R75). Beyrum words hold no select. -/
def Issue.flagBad (i : Issue) : FSel → Bool
  | .none => false
  | .a => i.fa == 15
  | .b => i.fb == 15

/-- FLAGS: bit i while count(fi) is not 0 (Table 5.3). -/
def Wave.flagsWord (w : Wave) : W64 :=
  (List.range 12).foldl (fun a i => if w.count i = 0 then a else a ||| laneBit i) 0#64
/-- SPLITS: live splits and the reading split's number; one split 0 in trap mode (R189). -/
def Wave.splitsWord (w : Wave) (n : Nat) : W64 := if w.inTrap then 1#64 else BitVec.ofNat 64 (w.splits.length + 2 ^ 4 * n)
/-- EXEC: the reading split's mask; all ones in trap mode (R189). -/
def Wave.execWord (w : Wave) (n : Nat) : W64 := if w.inTrap then BitVec.allOnes 64 else (w.split n).mask
/-- CLAUSEN of a split (R76). -/
def Split.clausen (sp : Split) : W64 := BitVec.ofNat 64 (sp.fa + 2 ^ 4 * sp.fb)

/-! Beats on the engines: V unit, SFU, M unit, X port. -/

def Claims.add (a b : Claims) : Claims := { v := a.v + b.v, sfu := a.sfu + b.sfu, m := a.m + b.m, x := a.x + b.x }
/-- Whether an operation that uses the engines of `b` meets a claim of `a`. -/
def Claims.meets (a b : Claims) : Bool :=
  (a.v != 0 && b.v != 0) || (a.sfu != 0 && b.sfu != 0) || (a.m != 0 && b.m != 0) || (a.x != 0 && b.x != 0)

end Sys2Proof.Machine
end

