-- ==== Sys2Proof/Machine/Operands.lean ====
section
/-! DEFINITION. Operand forms: addresses of the M slot (R151, R152, R158, Table 6.5), the conflict degree (R153), bank
reads and their penalty (R56), and the checks made at issue (R154, R158, R159). -/

namespace Sys2Proof.Machine

/-- How an address is formed (Table 6.5). -/
inductive AMode where
  | affine | tile | lane32 | seq | pair
  deriving DecidableEq, Repr

/-- The memory view of an M-slot access: `single` acts once, `data` is its register operand and `rd` says whether that
register is read as data. -/
structure MForm where
  p : Pred
  single : Bool
  mode : AMode
  base : Opnd
  ofs : Int
  size : Nat
  space : Space
  acc : Access
  data : Opnd
  rd : Bool
  deriving DecidableEq, Repr

def memForm (o : Mem) (single tile store : Bool) : MForm :=
  { p := o.p, single := single,
    mode := if tile then .tile else match o.base, o.space with
      | .s _, .s => .affine | .s _, _ => .seq | _, .s => .lane32 | _, _ => .pair,
    base := o.base, ofs := o.ofs.toInt, size := o.size.bytes, space := o.space,
    acc := if store then .wr else .rd, data := o.data, rd := store }

/-- The scalar that DATA of WAITA, SEND or RECV names, as a source: code 0xE0 reads as zero (R49, Table 3.9). Assumption 21. -/
def scalarData (c : Core) (w : Wave) (d : Opnd) : W64 := match d with | .s n => readS c w n.toNat | _ => 0#64
/-- The same as a destination: code 0xE0 discards the result. -/
def Wave.scalarDest (w : Wave) (d : Opnd) : Dest := match d with | .s n => .s (w.skey n.toNat) | _ => .none
/-- ATOM and CAS with DATA 0xE0 are neither the vector nor the scalar DATA form of R165: they act per lane. Assumption 21. -/
def atomForm (o : Atom) : MForm :=
  { p := o.p, single := o.data.isS,
    mode := match o.base, o.space with | .s _, .s => .affine | .s _, _ => .seq | _, .s => .lane32 | _, _ => .pair,
    base := o.base, ofs := o.ofs.toInt, size := if o.ty.wide then 8 else 4, space := o.space, acc := .rw, data := o.data, rd := true }

/-- The memory view of the accesses of R164 to R168. -/
def mform : Instr → Option MForm
  | .ld o => some (memForm o false false false)
  | .ldX o => some (memForm o false false false)
  | .ldt o => some (memForm o false true false)
  | .ldb o => some (memForm o true false false)
  | .st o => some (memForm o false false true)
  | .stX o => some (memForm o false false true)
  | .stt o => some (memForm o false true true)
  | .stb o => some (memForm o true false true)
  | .atomAdd o => some (atomForm o)
  | .atomMin o => some (atomForm o)
  | .atomMax o => some (atomForm o)
  | .atomAnd o => some (atomForm o)
  | .atomOr o => some (atomForm o)
  | .atomXor o => some (atomForm o)
  | .atomXchg o => some (atomForm o)
  | .atomIncw o => some (atomForm o)
  | .cas o => some (atomForm o)
  | .waita o => some
    { p := o.p, single := true, mode := if o.space = .s then .affine else .seq, base := .s o.base, ofs := o.ofs.toInt,
      size := if o.wide then 8 else 4, space := o.space, acc := .rd, data := o.data, rd := false }
  | _ => none

/-! ### Affine scalars (R151) -/

def affBase (x : W64) : Nat := bitsNat x.toNat 0 32
def affStride (x : W64) : Nat := bitsNat x.toNat 32 16
def affRot (x : W64) : Nat := bitsNat x.toNat 48 4
def affRsv (x : W64) : Nat := bitsNat x.toNat 52 12

/-- The scalar a form's base names; 0 for a vector base. -/
def MForm.sbase (f : MForm) (c : Core) (w : Wave) : W64 :=
  match f.base with | .s n => readS c w n.toNat | _ => 0#64
/-- The rotation code in force for the access; the .x forms use 0 (R151). -/
def MForm.rot (f : MForm) (c : Core) (w : Wave) : Nat :=
  match f.mode with | .affine => affRot (f.sbase c w) | .tile => affRot (f.sbase c w) | _ => 0

/-- The address of a lane (Table 6.5): an offset in the scratchpad, which may lie outside it, a virtual address modulo
2 to the 64, or an offset of the cistern or staging window. -/
def MForm.addr (f : MForm) (c : Core) (w : Wave) (sp : Split) (lane : Nat) : Int :=
  match f.mode with
  | .affine => let x := f.sbase c w
    (affBase x : Int) + f.ofs + (if f.single then 0 else (lane * affStride x : Nat))
  | .tile => let x := f.sbase c w
    (affBase x : Int) + f.ofs + ((lane / w.cols) * affStride x + (lane % w.cols) * f.size : Nat)
  | .lane32 => ((readOp c w sp f.base false lane 0).toNat % 2 ^ 32 : Nat) + f.ofs
  | .seq => (((f.sbase c w).toNat : Int) + f.ofs + (if f.single then 0 else (lane * f.size : Nat))) % 2 ^ 64
  | .pair => (((readOp c w sp f.base true lane 0).toNat : Int) + f.ofs) % 2 ^ 64

/-- Lanes in which the access acts: lane 0 alone, if any is active, for the forms that act once (R159). -/
def MForm.lanes (f : MForm) (w : Wave) (sp : Split) : Lanes :=
  let m := active w sp f.p
  if f.single then (if m = 0#64 then 0#64 else 1#64) else m

/-- Highest count of distinct words in one of the 64 banks. -/
def busiest (words : List Nat) (banks : Nat) : Nat :=
  (List.range banks).foldl (fun d b => Nat.max d ((words.filter (fun x => x % banks == b)).length)) 0

/-- The words of the scratchpad an access touches over all 64 lanes. Addresses below zero keep their bank. -/
def MForm.words (f : MForm) (c : Core) (w : Wave) (sp : Split) : List Nat :=
  ((List.range 64).flatMap (fun l =>
    let a := rotE ((f.addr c w sp l) + 2 ^ 40).toNat (f.rot c w)
    if f.size = 8 then [a / 4, rowAt a 4 / 4] else [a / 4])).dedup
/-- The conflict degree (R153). -/
def MForm.degree (f : MForm) (c : Core) (w : Wave) (sp : Split) : Nat :=
  if f.single then 1 else busiest (f.words c w sp) 64

/-- Whether the access is one of the affine scratchpad loads and stores, with d beats (Table 6.3). -/
def MForm.fixed (f : MForm) : Bool := f.space == .s && (f.mode == .affine || f.mode == .tile)
def isAtomic (i : Instr) : Bool :=
  match i with
  | .atomAdd _ => true | .atomMin _ => true | .atomMax _ => true | .atomAnd _ => true | .atomOr _ => true
  | .atomXor _ => true | .atomXchg _ => true | .atomIncw _ => true | .cas _ => true | _ => false
def isWaita : Instr → Bool | .waita _ => true | _ => false
/-- Loads and stores of fixed latency: LD, LDB, LDT, ST, STB and STT with affine addresses. -/
def fixedMem (i : Instr) (f : MForm) : Bool := f.fixed && !isAtomic i && !isWaita i

/-! ### Bank reads (R56) -/

/-- Physical vector registers an operand reads. -/
def opndRegs (w : Wave) (o : Opnd) (wide : Bool) : List Nat :=
  match o with
  | .v n => w.vkey n.toNat :: (if wide then [w.vkey (n.toNat + 1)] else [])
  | _ => []
/-- Physical vector registers a slot reads: V sources, M store data, per-lane addresses; CAS reads both its values. -/
def slotRegs (w : Wave) (i : Instr) : List Nat :=
  match i.vinfo with
  | some v => v.srcs.flatMap (fun s => opndRegs w s.1.op s.2)
  | none =>
    match mform i with
    | some f =>
      opndRegs w f.base (f.mode == .pair) ++
      (if f.rd then opndRegs w f.data (f.size == 8) else []) ++
      (match i, f.data with
        | .cas o, .v n => opndRegs w (Opnd.v (n + (if o.ty.wide then 2#7 else 1#7))) o.ty.wide
        | _, _ => [])
    | none => []
/-- The penalty of Table 2.4 for the distinct registers a bundle reads. -/
def penalty (regs : List Nat) : Nat := (busiest regs.dedup 4 + 1) / 2 - 1
def bundlePenalty (w : Wave) (b : Bundle) : Nat :=
  penalty (slotRegs w b.v ++ slotRegs w b.m ++ slotRegs w b.x ++ slotRegs w b.c)

/-! ### Checks at issue of an access (R151, R154, R158) -/

/-- The partition of a core, or one that owns nothing. -/
def State.cisLen (s : State) (core : Nat) : Nat := match s.partOf core with | some p => p.cisLen | none => 0

/-- Whether an address lies outside the scratchpad. -/
def spOut (c : Core) (a : Int) (size : Nat) : Bool := decide (a < 0) || decide ((c.size * 1024 : Int) < a + size)
/-- Whether an address lies outside the cistern or staging window. -/
def State.winOut (s : State) (core : Nat) (space : Space) (a : Int) (size : Nat) : Bool :=
  match space with
  | .h => decide ((s.cisLen core : Int) < a + size)
  | .l => match s.partOf core with | some p => !(s.mem.stageOk p.num a.toNat size) | none => true
  | _ => false

/-- The first lane of a mask for which a test holds. Assumption 40. -/
def firstLane (m : Lanes) (p : Nat → Bool) : Option Nat := (lanesOf m).find? p

/-- The causes an access raises at issue before translation, in the order of R187, with the faulting address. Assumption 40. -/
def State.memCheck (s : State) (core : Nat) (w : Wave) (sp : Split) (f : MForm) : Option (Cause × Nat) :=
  let c := s.core core
  let m := f.lanes w sp
  let addr := f.addr c w sp
  if m = 0#64 then none
  else
    let aff := f.mode == .affine || f.mode == .tile
    let spr := if f.space = .s then
        (if aff && affRsv (f.sbase c w) != 0 then firstLane m (fun _ => true) else firstLane m (fun l => spOut c (addr l) f.size))
      else none
    match spr with
    | some l => some (.sprange, (addr l % 2 ^ 64).toNat)
    | none =>
      match firstLane m (fun l => s.winOut core f.space (addr l) f.size) with
      | some l => some (.winrange, (addr l % 2 ^ 64).toNat)
      | none =>
        let pitch := f.mode == .tile && affStride (f.sbase c w) % f.size != 0
        match firstLane m (fun l => pitch || decide ((addr l) % (f.size : Int) ≠ 0)) with
        | some l => some (.misalign, (addr l % 2 ^ 64).toNat)
        | none => none

/-- Whether the space is translated (Table 6.1). -/
def translatedSpace : Space → Bool | .g => true | .c => true | _ => false

/-- The micro-TLB's translation of an address with the permission an access needs (R293). -/
def State.utlb (s : State) (core va : Nat) (acc : Access) : Option Nat :=
  match s.partOf core with
  | none => none
  | some p =>
    (tlbXlat (s.core core).utlb p va acc).map (·.at va)

/-- Where a lane's access goes; none while its page has no translation. -/
def State.locOf (s : State) (core : Nat) (w : Wave) (sp : Split) (f : MForm) (lane : Nat) : Option Loc :=
  let c := s.core core
  let a := f.addr c w sp lane
  match f.space with
  | .s => some (.sp (rotE a.toNat (f.rot c w)))
  | .h => match s.partOf core with | some p => some (.pa (cisternBase + p.cisBase + a.toNat)) | none => none
  | .l => some (.stg a.toNat)
  | _ => (s.utlb core a.toNat f.acc).map .pa

/-- Lanes of an access that have no translation yet and were not sent before (R160). -/
def State.missing (s : State) (core : Nat) (w : Wave) (sp : Split) (f : MForm) : Lanes :=
  if translatedSpace f.space then
    laneMask (fun l => (f.lanes w sp).getLsbD l && !(sp.gather.getLsbD l) && (s.locOf core w sp f l).isNone)
  else 0#64

/-! ### Operands of the V slot -/

/-- The low 32 bits of an operand's lane, or all of it for a 64-bit type. -/
def narrow (wide : Bool) (x : W64) : Nat := if wide then x.toNat else x.toNat % 2 ^ 32

/-- Signed value of a field of n bits. -/
def sext (n x : Nat) : Int := if x % 2 ^ n < 2 ^ (n - 1) then (x % 2 ^ n : Nat) else (x % 2 ^ n : Nat) - (2 ^ n : Nat)

end Sys2Proof.Machine
end

