-- ==== Sys2Proof/Machine/VSlot.lean ====
section
/-! DEFINITION. What the slot operations share: acting for the bundle being executed, and the run of a V-slot
operation from its operands to its result in flight (R45, R46, R50 to R58, R86 to R90). -/

namespace Sys2Proof.Machine

abbrev Out := Host.Outcome State Fault Refusal

/-- The bundle being executed traps precisely: no further part of it executes (R124, R175). -/
def State.trapIssue (s : State) (i : Issue) (t : TrapInfo) : State :=
  { (s.takeTrap i.core i.wave i.split t) with issue := none }

/-- A slot operation acts for the bundle being executed; where there is none, nothing is done. `bad` is the trap the
operation raises at issue. -/
def State.slotOp (s : State) (bad : Issue → Option TrapInfo) (eff : Issue → State) : Out :=
  match s.issue with
  | none => .next s
  | some i =>
    match bad i with
    | some t => .next (s.trapIssue i t)
    | none => .next (eff i)

def Issue.sp (i : Issue) : Split := i.pre.split i.split
/-- The active lanes of a slot with predicate p (R45). -/
def Issue.act (i : Issue) (p : Pred) : Lanes := active i.pre i.sp p
/-- The trap of a slot at the bundle's PC. -/
def Issue.fault (i : Issue) (c : Cause) (slot : Nat) : TrapInfo := TrapInfo.at c slot i.sp.pc
/-- A flag select without a number traps with ILLOP (R75). -/
def Issue.flagTrap (i : Issue) (f : FSel) (slot : Nat) : Option TrapInfo :=
  if i.flagBad f then some (i.fault .illop slot) else none

/-- The wave of the bundle being executed. -/
def State.updIss (s : State) (i : Issue) (f : Wave → Wave) : State := s.updWave i.core i.wave f
def State.updIssSplit (s : State) (i : Issue) (f : Split → Split) : State := s.updIss i (fun w => w.updSplit i.split f)

/-- The destination of an operand code, fixed at issue (R43); a queue reserves its place. -/
def State.destOf (s : State) (i : Issue) (d : Opnd) (wide : Bool) : Dest × State :=
  match d with
  | .v n => (.v (i.pre.vkey n.toNat) (if wide then some (i.pre.vkey (n.toNat + 1)) else none), s)
  | .s n => (.s (i.pre.skey n.toNat), s)
  | .q n => let r := (s.core i.core).reserveQ n.toNat; (.q n.toNat r.1, s.setCore i.core r.2)
  | _ => (.none, s)

/-- A value as it stands in a register or a latch: a scalar whole, a vector element of 32 bits or a pair of 64 (R87). A 64-bit operand that
reads a latch lane of a 32-bit result finds zero in its upper half (DESIGN CHOICE, assumption 102). -/
def placed (scalar wide : Bool) (x : Int) : W64 :=
  if scalar || wide then BitVec.ofInt 64 x else (BitVec.ofInt 32 x).zeroExtend 64

/-- What an operation computes for a lane from its operands, numbered from 0: value and flags. -/
abbrev LaneFn := (Nat → Nat) → Nat → Int × AFlags

/-- The number of the free words a bundle reads: the counter, or under DET one that its place in its wave alone decides, so that two
runs read the same (R186; assumption 2). -/
def State.freeBase (s : State) (i : Issue) : Nat :=
  if s.isDet i.core then 2 ^ 320 + 2 ^ 9 * (i.isn + 2 ^ 64 * (i.pre.retc.toNat + 2 ^ 64 * (i.split + 4 * (i.pre.widx + 32 * i.pre.block)))) else s.fresh
/-- Operand k of a V-slot operation in a lane, as the bits its type reads. -/
def State.vOperand (s : State) (i : Issue) (v : VInfo) (k lane : Nat) : Nat :=
  match v.srcs[k]? with
  | some (src, wide) => narrow wide (readOp (s.core i.core) i.pre i.sp src.op wide lane (s.freeBase i + 64 * k))
  | none => 0

/-- Values and flags of an operation in the lanes of a mask; a scalar operation runs once, with lane 0 (R46). -/
def runLanes (m : Lanes) (scalar wide : Bool) (ops : Nat → Nat → Nat) (f : LaneFn) : RMap × AFlags :=
  if scalar then
    if m = 0#64 then ([], 0#6) else let r := f (fun k => ops k 0) 0; (RMap.wr [] 0 (placed true wide r.1), r.2)
  else
    (lanesOf m).foldl (fun acc l => let r := f (fun k => ops k l) l; (RMap.wr acc.1 l (placed false wide r.1), acc.2 ||| r.2)) ([], 0#6)

/-- Put a result of fixed latency in flight: it makes older results of its registers dead and joins the window. In carried execution
the window drains at the op's boundary: the result is written as it arrives (R54, R63). -/
def State.launchRes (s : State) (i : Issue) (mem : Bool) (lat : Nat) (d : Dest) (mask : Lanes) (wide scalar : Bool)
    (vals : RMap) (fl : AFlags) (vas : NMap Nat := []) : State :=
  let r : FRes := { id := s.nextId, isn := i.isn, mem := mem, rem := lat, arrived := false, dest := d, mask := mask, live := mask,
                    wide := wide, scalar := scalar, vals := vals, flags := fl, out := i.pre.carriedNow, pc := i.sp.pc, vas := vas }
  { s with nextId := s.nextId + 1 }.updIssSplit i (fun sp => let sp := sp.kill d mask; { sp with win := sp.win ++ [r] })

/-- The result mask of an operation: a scalar operation takes effect if some lane is active (R46). -/
def effMask (scalar : Bool) (m : Lanes) : Lanes := if scalar then (if m = 0#64 then 0#64 else 1#64) else m

/-- Pop every queue an operation names as a source (R58). -/
def State.popAll (s : State) (i : Issue) (v : VInfo) : State :=
  v.queues.foldl (fun s n => s.updCore i.core (fun c => c.popQ n.toNat)) s

/-- The mark of a micro PC that its expansion has consumed an RNG index (R146). -/
def rngMark : Nat := 2 ^ 16
/-- One RNG index is consumed (R40); an expansion consumes one at its end (R146). -/
def State.stepRng (s : State) (i : Issue) (rng : Bool) : State :=
  if !rng then s
  else if i.inMacro then
    match ((s.wave i.core i.wave).split i.split).mpc with
    | some m => s.updIssSplit i (fun sp => { sp with mpc := some (m % rngMark + rngMark) })
    | none => if rngMark ≤ i.sp.mpc.getD 0 then s else s.updIss i (fun w => { w with rngidx := w.rngidx + 1 })
  else s.updIss i (fun w => { w with rngidx := w.rngidx + 1 })

/-- The draw of the bundle being executed for a lane (R39). -/
def Issue.drawn (i : Issue) (lane j : Nat) : Nat := (Sys2Proof.draw i.pre.rngseed i.pre.rngidx lane j).toNat
/-- The random word of a rounding: drawn under .sr alone. -/
def Issue.rnd (i : Issue) (r : RMode) (lane : Nat) : Nat := if r = .sr then i.drawn lane 0 else 0
def isSr (r : RMode) : Bool := r == .sr

/-- A V-slot operation of fixed latency whose values are given: queue pops, the result in flight, the random index. -/
def State.vPut (s : State) (i : Issue) (v : VInfo) (pd : Option Nat) (rng : Bool) (r : RMap × AFlags) : State :=
  let m := effMask v.isScalar (i.act v.p)
  let lat := vLat (s.ratio i.core) v.cls + i.pen
  let s := s.popAll i v
  let d := match pd, v.dst with
    | some n, _ => (Dest.p n, s)
    | none, some o => s.destOf i o v.dwide
    | none, none => (Dest.none, s)
  { ((d.2.launchRes i false lat d.1 m v.dwide v.isScalar r.1 r.2).stepRng i rng) with fresh := s.fresh + 256 }

/-- A V-slot operation of fixed latency that computes lane by lane. -/
def State.vRun (s : State) (v : VInfo) (pd : Option Nat) (rng : Bool) (f : Issue → LaneFn) : Out :=
  s.slotOp (fun _ => none) (fun i =>
    s.vPut i v pd rng (runLanes (i.act v.p) v.isScalar v.dwide (s.vOperand i v) (f i)))

/-- A vector operation whose lane reads other lanes: a source lane that is not active gives `inact` (R59). -/
def State.vCross (s : State) (v : VInfo) (inact : Nat) (f : Issue → (Nat → Nat → Nat) → Nat → Int × AFlags) : Out :=
  s.slotOp (fun _ => none) (fun i =>
    let m := i.act v.p
    let rd := fun k l => if m.getLsbD l then s.vOperand i v k l else inact
    s.vPut i v none false (runLanes m false v.dwide (s.vOperand i v) (fun _ l => f i rd l)))

end Sys2Proof.Machine
end

