-- ==== Sys2Proof/Machine/MemOps.lean ====
section
/-! DEFINITION. Shared operations of the M slot: accesses sent to their homes one lane at a time, their performing and
completion, watched sectors, deferred traps, the L1 and deterministic padding (R153 to R163, R184, R284, R297 to R298,
R375 to R377). -/

namespace Sys2Proof.Machine

/-! ### Watched sectors (R168) -/

/-- A pending WAITA whose word lies in the written sector reads again within finite time; one whose read has ended it does not. -/
def wakeOp (loc : Loc) (fr : Nat) (o : VarOp) : VarOp :=
  match o.kind with
  | .waita _ _ _ _ _ =>
    if o.padded then o
    else { o with reqs := o.reqs.map (fun r =>
      let hit := match r.loc, loc with
        | .sp a, .sp b => a / 256 == b / 256
        | .pa a, .pa b => a / 256 == b / 256
        | .stg a, .stg b => a / 256 == b / 256
        | _, _ => false
      if hit && r.done && r.data2 == 0 then { r with done := false, rem := Config.freeNat fr } else r) }
  | _ => o
/-- A write to a scratchpad byte wakes the core's waiting operations. -/
def State.wakeSp (s : State) (core a : Nat) : State :=
  if (s.core core).watch.isEmpty then s
  else { s.updCore core (fun c => { c with ops := c.ops.map (wakeOp (.sp a) s.fresh) }) with fresh := s.fresh + 1 }
/-- A write to a sector of global, cistern or staging memory wakes every core that watches something. -/
def State.wake (s : State) (loc : Loc) : State :=
  { s with fresh := s.fresh + 1,
           cores := s.cores.map (fun e => if e.2.watch.isEmpty then e else (e.1, { e.2 with ops := e.2.ops.map (wakeOp loc s.fresh) })) }

/-! ### Homes -/

/-- Some station carries traffic to another package (R374, R386). -/
def State.linkUp (s : State) : Bool := s.pack.stations.any (fun e => e.2.up)
def peerOf (pa : Nat) : Nat := pa / 2 ^ 41 % 1024
def Peer.zero : Peer :=
  { sentW := 0, sentM := 0, fence := 0, marks := [], acked := 0, held := [], rq := [], sseq := [], rseq := [] }
def State.peer (s : State) (q : Nat) : Peer := NMap.getD s.pack.peers Peer.zero q
/-- The counts of an exchange as they stand at a launch: of the messages that came, those that have been taken. -/
def Peer.base (p : Peer) : NetBase :=
  { sent := p.sentW, sseq := p.sseq, rseq := p.rseq.map (fun e => (e.1, e.2 - (p.rq.filter (fun m => m.2.1 == e.1)).length)) }
/-- The counts of an exchange as they stood when a grid was launched. -/
def State.netBase (s : State) (grid q : Nat) : NetBase := ((s.grid? grid).bind (fun g => NMap.get? g.net q)).getD ⟨0, [], []⟩
def State.updPeer (s : State) (q : Nat) (f : Peer → Peer) : State :=
  s.updPack (fun p => { p with peers := NMap.put p.peers q (f (NMap.getD p.peers Peer.zero q)) })

/-- Stations that are up. -/
def State.upStations (s : State) : List Nat := (s.pack.stations.filter (fun e => e.2.up)).map (·.1)
/-- The station of a request to a remote address (R374). -/
def State.stationOf (s : State) (pa : Nat) : Option Nat :=
  let l := s.upStations
  l[((bitsNat pa 11 2) ^^^ (peerOf pa % 4)) % Nat.max 1 l.length]?
/-- A request of accesses in the 256-byte range of a remote address leaves, on the address's station and in the epoch of the markers sent
before it; but for a read it counts as one write (R374, R375, R377). -/
def State.sendReq (s : State) (kind pa : Nat) (parts : List UpliPart) : State :=
  let q := peerOf pa
  (if kind = 0 then s else s.updPeer q (fun p => { p with sentW := p.sentW + 1 })).emit
    (.remote q ((s.stationOf pa).getD 0) (s.peer q).sentM kind (pa % 2 ^ 41 / 256 * 256) parts)
/-- A request that one more access joins. -/
def OutMsg.join (m : OutMsg) (kind pa : Nat) (part : UpliPart) : Option OutMsg :=
  match m with
  | .remote q st ep k a parts =>
    if q = peerOf pa ∧ k = kind ∧ a = pa % 2 ^ 41 / 256 * 256 then some (.remote q st ep k a (parts ++ [part])) else none
  | _ => none
/-- An engine's access joins a request to its 256-byte range that left at or after place `since` of what was sent, in this same event; else
a request of its own leaves (R382). -/
def State.sendPart (s : State) (since kind pa n : Nat) (bytes : List Byte) : State :=
  let part : UpliPart := { ofs := pa % 256, len := n, data := bytes }
  let joins := fun (k : Nat) => decide (since ≤ k) && ((s.pack.out[k]?).bind (fun m => m.join kind pa part)).isSome
  match (List.range s.pack.out.length).find? joins with
  | some k => s.updPack (fun p => { p with out := p.out.take k ++ (((p.out[k]?).bind (fun m => m.join kind pa part)).toList ++ p.out.drop (k + 1)) })
  | none => s.sendReq kind pa [part]

/-- A store performs at its home under a cache operator (R156, R280, R284); none is an error response. -/
def State.homeStore (s : State) (pa size data : Nat) (cop : CacheOp) : Option State :=
  if isRemote pa then none
  else (s.mem.store pa size data).map (fun m => { s with mem := m.noteWrite pa cop }.wake (.pa pa))

/-- The 256 bytes of a sector read at home, for a remote one the free bytes of a response; none is an error response. -/
def State.homeSector (s : State) (sec draw : Nat) : Option (List Byte) :=
  if isRemote (sec * 256) then (if s.linkUp then some (freeBytes draw 256) else none)
  else (List.range 256).foldl (fun acc j => acc.bind (fun l => (s.mem.rd (sec * 256 + j)).map (fun b => l ++ [b]))) (some [])

/-- A load reads its value: an L1 copy may serve .cd and .cs loads, which fill it; .cg and .cn drop the copy (R155, R156,
R297, R298). `useL1` is false for the cistern; `c` marks a line of .c; `draw` numbers the bytes another package answers with.
Assumption 37. -/
def State.homeLoad (s : State) (core pa size : Nat) (useL1 c : Bool) (cop : CacheOp) (draw : Nat) : Option Nat × State :=
  let k := s.core core
  let sec := sector pa
  if useL1 && (cop == .cd || cop == .cs) then
    match k.l1Hit sec c with
    | some l => (some (leNat ((l.data.drop (pa % 256)).take size)), s)
    | none =>
      match s.homeSector sec draw with
      | some d =>
        (some (leNat ((d.drop (pa % 256)).take size)),
          { (s.setCore core (k.l1Fill sec { c := c, data := d, cs := cop == .cs } s.fresh)) with
            mem := (s.mem.noteRead pa cop).noteCopy pa (dieOf core) cop, fresh := s.fresh + 1 })
      | none => (none, s)
  else
    let s := s.updCore core (fun k => { k with l1 := NMap.del k.l1 sec })
    if isRemote pa then ((s.homeSector sec draw).map (fun d => leNat ((d.drop (pa % 256)).take size)), s)
    else (s.mem.load pa size, { s with mem := (s.mem.noteRead pa cop).noteCopy pa (dieOf core) cop })

/-! ### Atomics (R165, R166) -/

def atyInt : ATy → ITy | .i32 => .i32 | .n32 => .n32 | .i64 => .i64 | .n64 => .n64 | .f32 => .n32
/-- The new value of an atomic; `c` is the comparand of CAS. -/
def atomNew (op : AtomOp) (ty : ATy) (old v c : Nat) : Nat :=
  let W := 8 * (if ty.wide then 8 else 4)
  let t := atyInt ty
  match op with
  | .add => if ty = .f32 then (finish .f32 .rn false 0 (faddX false (decF .f32 old) (decF .f32 v))).1 else (old + v) % 2 ^ W
  | .min => if ty = .f32 then (fminmax .f32 false old v).1 else if t.dec old ≤ t.dec v then old else v
  | .max => if ty = .f32 then (fminmax .f32 true old v).1 else if t.dec old ≤ t.dec v then v else old
  | .and => old &&& v
  | .or => old ||| v
  | .xor => old ^^^ v
  | .xchg => v
  | .incw => if v ≤ old then 0 else (old + 1) % 2 ^ W
  | .cas => if old = c then v else old
/-- Atomics UALink carries (Table 18.3). -/
def atomRemote (op : AtomOp) (ty : ATy) : Bool :=
  ty != .f32 && (op == .add || op == .min || op == .max || op == .xchg || op == .cas)

/-! ### Performing -/

/-- Sector of a place. -/
def Loc.sec : Loc → Nat × Nat | .sp a => (0, a / 256) | .pa a => (1, a / 256) | .stg a => (2, a / 256)

/-- Whether an older access of the core to the same sector has not performed: accesses of one core to one sector reach
their home in issue order (R280, R298), of a WAITA its first read. Assumption 23. -/
def olderHit (ops : List VarOp) (id : Nat) (r : Req) : Bool :=
  ops.any (fun o => decide (o.id < id) && (match o.kind with | .spStore => false | .drain _ _ => false | .ldset _ _ _ _ _ _ _ => false | _ => true) &&
    o.reqs.any (fun q => !q.done && !q.again && decide (q.loc.sec = r.loc.sec)))
/-- The memory accesses of a wave issued before an operation that have not performed; `st` counts stores too. Accesses to another package's
memory count (DESIGN CHOICE, assumption 65). -/
def earlierOpen (ops : List VarOp) (uid id : Nat) (st : Bool) : Bool :=
  ops.any (fun o => o.uid == uid && decide (o.id < id) && (match o.kind with
    | .load _ _ _ _ => true | .atom _ _ _ _ => true | .waita _ _ _ _ _ => true | .ldset _ _ _ _ _ _ _ => true
    | .store _ _ => st | .spStore => st | _ => false))
/-- An atomic with release order performs after the wave's earlier accesses (R167). -/
def relHeld (ops : List VarOp) (o : VarOp) : Bool :=
  match o.kind with
  | .atom _ _ _ ord => (ord == .rel || ord == .ar) && !o.padded && earlierOpen ops o.uid o.id true
  | _ => false
def Req.remote (r : Req) : Bool := match r.loc with | .pa a => isRemote a | _ => false
/-- The package a request that has not performed goes to. -/
def Req.peer (r : Req) : Option Nat := match r.loc with | .pa a => if isRemote a && !r.done then some (peerOf a) else none | _ => none
def VKind.writes : VKind → Bool | .store _ _ => true | .atom _ _ _ _ => true | _ => false
/-- The packages to which writes of an operation have still to leave (R377). -/
def VarOp.toPeers (o : VarOp) : List Nat :=
  match o.kind with
  | .send _ q _ n _ _ _ => if n = 0 then [] else [q]
  | k => if k.writes then o.reqs.filterMap Req.peer else []
/-- A write waits while a marker that its wave asked for before it has not left for its package (R377, R378). Assumption 70. -/
def marksHold (ops : List VarOp) (uid id q : Nat) : Bool :=
  ops.any (fun d => d.uid == uid && decide (d.id < id) && !d.padded && (match d.kind with
    | .drain true ds => ds.contains q && d.reqs.any (fun r => !r.done)
    | _ => false))
/-- A lane's access waits for other operations before it is sent. Assumption 23. -/
def reqHeld (ops : List VarOp) (o : VarOp) (r : Req) : Bool :=
  (!o.padded && olderHit ops o.id r) || relHeld ops o || (o.kind.writes && (match r.peer with | some q => marksHold ops o.uid o.id q | none => false))
/-- A lane's access may perform now. -/
def reqDue (ops : List VarOp) (o : VarOp) (r : Req) : Bool := !r.done && r.rem == 0 && !(reqHeld ops o r)
/-- A remote request has been sent and has no response yet (R386). -/
def Req.outstanding (ops : List VarOp) (o : VarOp) (r : Req) : Bool := r.remote && !r.done && !(reqHeld ops o r)
/-- How long a request may wait for its response: 1 ms (R386). -/
def responseTime : Nat := 1000 * tpu
/-- The lanes whose requests have had no response for 1 ms, under DET of an operation whose data is late at its padded ic (R386). -/
def VarOp.overdue (o : VarOp) (c : Core) (now : Nat) : Lanes :=
  if o.padded && !(o.rem == 0 && c.lates.contains o.id) then 0#64
  else o.reqs.foldl (fun m r => if r.outstanding c.ops o && decide (r.since + responseTime ≤ now) then m ||| laneBit r.lane else m) 0#64
/-- An earlier SEND of a wave to a peer and channel has not left: they are matched in issue order (R380). -/
def sendsHold (ops : List VarOp) (uid id q ch : Nat) : Bool :=
  ops.any (fun d => d.uid == uid && decide (d.id < id) && (match d.kind with | .send _ p c n _ _ _ => p == q && c == ch && n != 0 | _ => false))
/-- A SEND that markers or earlier SENDs keep from leaving. -/
def VarOp.sendHeld (o : VarOp) (ops : List VarOp) : Bool :=
  match o.kind with | .send _ q ch n _ _ _ => n != 0 && (marksHold ops o.uid o.id q || sendsHold ops o.uid o.id q ch) | _ => false
/-- A request that is not sent yet does not wait for its response, nor does a SEND (R386). -/
def VarOp.unsent (o : VarOp) (ops : List VarOp) (now : Nat) : VarOp :=
  if o.sendHeld ops then { o with reqs := o.reqs.map (fun r : Req => { r with since := now }) }
  else if o.reqs.any (fun r => r.remote && !r.done) then
    { o with reqs := o.reqs.map (fun r : Req => if r.remote && !r.done && reqHeld ops o r then { r with since := now } else r) }
  else o

/-- A load that L1 may serve, and that fills it (R155, R156). -/
def VKind.fills : VKind → Bool | .load _ _ _ cop => cop == .cd || cop == .cs | _ => false
/-- The kind of the UPLI request of an operation (Table 18.3). -/
def VKind.upli : VKind → Option Nat
  | .load _ _ _ _ => some 0
  | .store _ _ => some 1
  | .atom _ op ty _ =>
    let signed := ty == .i32 || ty == .i64
    (match op with
      | .add => some 2
      | .min => some (if signed then 3 else 5)
      | .max => some (if signed then 4 else 6)
      | .xchg => some 7
      | .cas => some 8
      | _ => none)
  | _ => none
/-- What a lane's access puts into the request of its 256-byte range: a load that fills L1 asks for the sector, CAS sends its comparand
before the new value. -/
def Req.upliPart (k : VKind) (r : Req) : UpliPart :=
  if k.fills then { ofs := 0, len := 256, data := [] } else
  let a := match r.loc with | .pa a => a % 256 | _ => 0
  let n := match k with | .load _ n _ _ => n | .store n _ => n | .atom _ _ ty _ => if ty.wide then 8 else 4 | _ => 0
  { ofs := a, len := n,
    data := match k with | .store _ _ => natLE n r.data | .atom _ .cas _ _ => natLE n r.data2 ++ natLE n r.data | .atom _ _ _ _ => natLE n r.data | _ => [] }
/-- The requests of the remote accesses that perform now: one for the lanes of each 256-byte range (R375). `new` is the operation's
requests after they performed, `l1` the core as it was before. -/
def State.sendLanes (s : State) (o : VarOp) (l1 : Core) (new : List Req) : State :=
  match o.kind.upli with
  | none => s
  | some k =>
    let at' := fun (r : Req) => match r.loc with | .pa a => if isRemote a then some (a / 256) else none | _ => none
    let asks := fun (r : Req) => match at' r with | some sec => !(o.kind.fills && (l1.l1Hit sec o.kind.isC).isSome) | none => false
    let go := ((o.reqs.zip new).filter (fun x => !x.1.done && x.2.done && !x.2.err && asks x.2)).map (·.2)
    ((go.filterMap at').eraseDups).foldl (fun s sec => s.sendReq k (sec * 256)
      (((go.filter (fun r => at' r == some sec)).map (Req.upliPart o.kind)).take (if o.kind.fills then 1 else 64))) s
/-- Before they perform, the remote loads of one 256-byte range are numbered alike: one response answers them (R375). -/
def VarOp.drawn (o : VarOp) (fr : Nat) : VarOp :=
  let sec := fun (r : Req) => r.loc.sec
  { o with reqs := o.reqs.map (fun r => match o.kind, r.loc with
    | .load _ _ _ _, .pa a => if isRemote a && !r.done then { r with val := fr + 256 * o.reqs.findIdx (fun q => decide (sec q = sec r)) } else r
    | _, _ => r) }

/-- One lane's access performs as one event (R296). Assumption 37. -/
def State.performReq (s : State) (core : Nat) (o : VarOp) (r : Req) : Req × State :=
  let bad := { r with done := true, err := true }
  match o.kind, r.loc with
  | .load _ size c cop, .pa pa =>
    let useL1 := decide (pa < cisternBase) || decide (cisternBase + 0x400000 ≤ pa)
    let held := ((s.core core).l1Hit (sector pa) c).isSome
    match s.homeLoad core pa size useL1 c cop r.val with
    | (some x, s) => ({ r with done := true, val := x },
        if o.noFill && !held then s.updCore core (fun k => { k with l1 := NMap.del k.l1 (sector pa) }) else s)
    | (none, s) => (bad, s)
  | .load _ size _ _, .stg a => ({ r with done := true, val := Memory.load s.mem.stg a size }, s)
  | .store size cop, .pa pa =>
    let s := s.updCore core (fun k => { k with l1 := NMap.del k.l1 (sector pa) })
    if isRemote pa then (if s.linkUp then ({ r with done := true }, s) else (bad, s))
    else match s.homeStore pa size r.data cop with
    | some s => ({ r with done := true }, s)
    | none => (bad, s)
  | .store size _, .stg a =>
    ({ r with done := true }, (s.updMem (fun m => { m with stg := Memory.store m.stg a size r.data })).wake (.stg a))
  | .spStore, .sp a => ({ r with done := true }, (s.updCore core (fun c => (c.spForget (fun x => decide (x.id < o.id)) a).spPoke a (BitVec.ofNat 8 r.data))).wakeSp core a)
  | .atom _ op ty _, .pa pa =>
    let size := if ty.wide then 8 else 4
    let s := s.updCore core (fun k => { k with l1 := NMap.del k.l1 (sector pa) })
    if isRemote pa then
      if s.linkUp && atomRemote op ty then
        ({ r with done := true, val := (Config.freeWord s.fresh).toNat % 2 ^ (8 * size) },
         { s with fresh := s.fresh + 1 })
      else (bad, s)
    else match s.mem.load pa size with
      | some old =>
        match s.homeStore pa size (atomNew op ty old r.data r.data2) .cd with
        | some s => ({ r with done := true, val := old }, s)
        | none => (bad, s)
      | none => (bad, s)
  | _, _ => ({ r with done := true }, s)

/-- Whether two accesses of n and m bytes overlap at one place. -/
def Loc.overlap : Loc → Nat → Loc → Nat → Bool
  | .pa a, n, .pa b, m => decide (a < b + m) && decide (b < a + n)
  | .stg a, n, .stg b, m => decide (a < b + m) && decide (b < a + n)
  | _, _, _, _ => false
def VKind.bytes : VKind → Nat
  | .load _ n _ _ => n | .store n _ => n | .atom _ _ ty _ => if ty.wide then 8 else 4 | .waita _ _ n _ _ => n | _ => 1
/-- Every lane that may perform does, in lane order; lanes of one store or atomic that write one location do so in ascending order
(R164, R165): a lane waits for those before it, which `open'` lists. -/
def State.performAll (s : State) (core : Nat) (o : VarOp) (open' : List Req) : List Req → List Req × State
  | [] => ([], s)
  | r :: rs =>
    if reqDue (s.core core).ops o r && !(o.kind.writes && open'.any (fun q => q.loc.overlap o.kind.bytes r.loc o.kind.bytes)) then
      let p := s.performReq core o r
      let q := p.2.performAll core o open' rs
      (p.1 :: q.1, q.2)
    else let q := s.performAll core o (if r.done then open' else r :: open') rs; (r :: q.1, q.2)

def State.op? (s : State) (core id : Nat) : Option VarOp := (s.core core).ops.find? (fun o => o.id == id)
def State.updOp (s : State) (core id : Nat) (f : VarOp → VarOp) : State :=
  s.updCore core (fun c => { c with ops := c.ops.map (fun o : VarOp => if o.id = id then f o else o) })

/-! ### Completion -/

/-- Apply a function to the split an operation belongs to, frozen or not. -/
def State.updOpSplit (s : State) (core : Nat) (o : VarOp) (f : Split → Split) : State :=
  s.updWave core o.wave (fun w => if w.uid = o.uid then (if o.handler then w.updSplit o.split f else w.updOwn o.split f) else w)

/-- Lanes whose access failed. -/
def errLanes (l : List Req) : Lanes := l.foldl (fun m r => if r.err then m ||| laneBit r.lane else m) 0#64
/-- Failed lanes defer a MEMERR trap of the split (R161). -/
def State.deferMem (s : State) (core : Nat) (o : VarOp) : State :=
  let e := errLanes o.reqs
  if e = 0#64 then s
  else
    let va := ((o.reqs.find? (fun r => r.err)).map (·.va)).getD 0
    s.updOpSplit core o (fun sp => sp.defer (Deferred.mk false o.pc va e 0 o.id))

/-- An operation leaves: its flag count falls (R50). -/
def State.retireOp (s : State) (core : Nat) (o : VarOp) : State :=
  (s.updCore core (fun c => { c with ops := c.ops.filter (fun x => x.id != o.id), watch := c.watch.filter (fun e => e.1 != o.id) })).updWave
    core o.wave (fun w => if w.uid = o.uid then w.lower o.flag else w)

/-- Write the lanes of a variable-latency result that did not fail (R53, R161). -/
def State.writeBack (s : State) (core : Nat) (o : VarOp) (d : Dest) : State :=
  let good := o.reqs.filter (fun r => !r.err)
  let vals := good.foldl (fun m r => RMap.wr m r.lane (BitVec.ofNat 64 r.val)) []
  let mask := good.foldl (fun m r => m ||| laneBit r.lane) 0#64
  s.bank core o.wave d mask o.id vals

/-- A completed operation acts as an acquire: the core's L1 lines but those of .c go (R156, R171). -/
def State.acquire (s : State) (core : Nat) : State := s.updCore core (fun c => c.l1Drop false)

/-- The completion of an operation whose accesses have performed. -/
def State.finishOp (s : State) (core : Nat) (o : VarOp) : State :=
  let s := match o.kind with
    | .load d _ _ _ => s.writeBack core o d
    | .atom d _ _ _ => s.writeBack core o d
    | .fdiv d vals mask fl =>
      (s.bank core o.wave d mask o.id vals).updWave core o.wave (fun w => if w.uid = o.uid then { w with aflg := w.aflg ||| fl } else w)
    | _ => s
  (s.deferMem core o).retireOp core o

/-- Bytes of a scratchpad store with an error in its path that it wrote as it issued, and nothing wrote after it, keep their old values
(R161), or what another of its lanes writes there. -/
def State.undoStore (s : State) (core : Nat) (o : VarOp) (hit : Req → Bool) : State :=
  (o.reqs.filter (fun r => hit r && r.done)).foldl (fun s r => match r.loc with
    | .sp a =>
      let x := match (o.reqs.filter (fun q => q.loc == r.loc && !hit q && !q.err)).getLast? with | some q => q.data | none => r.val
      s.updCore core (fun c => c.spPoke a (BitVec.ofNat 8 x))
    | _ => s) s
/-- Progress of an operation: failing lanes are marked, due lanes perform, and when its time has come and all lanes have
performed it completes (R157, R159, R161). A scratchpad access whose value was read or written at its issue takes its error then; what
a failed lane of ATOM.s or CAS.s wrote at its issue stands (DESIGN CHOICE, assumption 23). -/
def State.progress (s : State) (core id : Nat) (err : Lanes) : State :=
  match s.op? core id with
  | none => s
  | some o =>
    let inSp := fun (r : Req) => match r.loc with | .sp _ => true | _ => false
    let hit := fun (r : Req) => err.getLsbD r.lane && !r.err && (!r.done || inSp r)
    let s := if o.kind = .spStore then s.undoStore core o hit else s
    let o := { o with reqs := o.reqs.map (fun r => if hit r then { r with done := true, err := true } else r) }
    let far := o.reqs.any Req.remote
    let o := if far then o.drawn s.fresh else o
    let p := (if far then { s with fresh := s.fresh + 256 * o.reqs.length } else s).performAll core o [] o.reqs
    let s := p.2.sendLanes o (s.core core) p.1
    let o := { o with reqs := p.1 }
    let s := s.updOp core id (fun _ => o)
    if o.rem = 0 ∧ o.reqs.all (·.done) then s.finishOp core o else s

/-! ### Sending -/

/-- The padded count under DET: P, or one past an earlier overlapping access of the core (R184). -/
def detRem (ops : List VarOp) (size : Nat) (reqs : List Req) (p : Nat) : Nat :=
  ops.foldl (fun m o =>
    if o.reqs.any (fun q => !q.done && reqs.any (fun r => q.loc.overlap o.kind.bytes r.loc size)) then Nat.max m (o.rem + 1) else m) p

/-- A variable-latency operation enters flight: its count is the padded figure under DET, 1 without an active lane, else
free (R159, R184, R388); its flag is raised (R50). Lanes sent before a hold are taken over from `gatherOp` (R160). Assumption 3. -/
def State.sendOp (s : State) (i : Issue) (flag : Option Nat) (pad : Nat) (kind : VKind) (reqs : List Req) : State :=
  let det := s.isDet i.core
  let c := s.core i.core
  let early := match i.gatherOp with | some g => c.ops.find? (fun o : VarOp => o.id == g) | none => none
  let reqs := (match early with | some o => o.reqs | none => []) ++ reqs
  let ops := match early with | some o => c.ops.filter (fun x => x.id != o.id) | none => c.ops
  let pad := if reqs.any Req.remote then (s.ratio i.core).scale 24000 else pad
  let rem := if det then detRem ops kind.bytes reqs pad else if reqs.isEmpty && i.gatherOp.isNone then 1 else 1 + Config.freeNat s.fresh
  let reqs := (List.range reqs.length).map (fun k =>
    let r := reqs.getD k { lane := 0, loc := .sp 0, va := 0, rem := 0, data := 0, data2 := 0, done := true, err := false, val := 0 }
    let k' := if r.remote then reqs.findIdx (fun q => !q.done && decide (q.loc.sec = r.loc.sec)) else k
    if r.done then r else { r with rem := if det then rem else Config.freeNat (s.fresh + 1 + k') })
  let op : VarOp := { id := s.nextId, wave := i.wave, uid := i.pre.uid, grid := i.pre.grid, split := i.split, pc := i.sp.pc,
                      handler := i.pre.inTrap, flag := flag, rem := rem, padded := det, kind := kind, reqs := reqs }
  let s := { s.setCore i.core { c with ops := ops ++ [op] } with nextId := s.nextId + 1, fresh := s.fresh + 128 }
  s.updIss i (fun w => w.raise flag)

/-- The accesses of the lanes not sent before, with their data. -/
def State.accesses (s : State) (i : Issue) (f : MForm) (lanes : Lanes) (data : Nat → Nat × Nat) : List Req :=
  (lanesOf lanes).filterMap (fun l =>
    (s.locOf i.core i.pre i.sp f l).map (fun loc =>
      { lane := l, loc := loc, va := ((f.addr (s.core i.core) i.pre i.sp l) % 2 ^ 64).toNat, rem := 0, data := (data l).1, data2 := (data l).2,
        done := false, err := false, val := 0, since := s.now }))
def State.lanesLeft (i : Issue) (f : MForm) : Lanes := f.lanes i.pre i.sp &&& ~~~ i.gather

/-- The register operand of a store or atomic in a lane. -/
def State.mData (s : State) (i : Issue) (f : MForm) (lane : Nat) : Nat :=
  (readOp (s.core i.core) i.pre i.sp f.data (f.size == 8) lane (s.freeBase i + 64)).toNat % 2 ^ (8 * f.size)

/-- The compare and new values of CAS (R166); both are 0 for DATA 0xE0, which reads as zero (R49, Table 3.9). Assumption 21. -/
def State.casData (s : State) (i : Issue) (o : Atom) (lane : Nat) : Nat × Nat :=
  let c := s.core i.core
  match o.data with
  | .v n =>
    let rd := fun k : BitVec 7 => (readOp c i.pre i.sp (.v (n + k)) o.ty.wide lane 0).toNat
    if o.ty.wide then (rd 2#7, rd 0#7) else (rd 1#7, rd 0#7)
  | .s n =>
    let x := (readS c i.pre n.toNat).toNat
    if o.ty.wide then ((readS c i.pre (n.toNat + 1)).toNat, x) else (x / 2 ^ 32, x % 2 ^ 32)
  | _ => (0, 0)

/-- Make dead what the window still holds for a destination written now (R53). -/
def State.killDest (s : State) (i : Issue) (d : Dest) (m : Lanes) : State := s.updIssSplit i (fun sp => sp.kill d m)

/-- The trap an access raises at issue, before translation (R158, R159, R187). -/
def State.memTrap (s : State) (i : Issue) (f : MForm) (fsel : FSel) : Option TrapInfo :=
  match i.flagTrap fsel 2 with
  | some t => some t
  | none => (s.memCheck i.core i.pre i.sp f).map (fun x => { i.fault x.1 2 with addr := x.2 })

/-- The walks under way in a cluster. -/
def State.clusterWalks (s : State) (cluster : Nat) : List Walk :=
  s.cores.flatMap (fun e => if clusterOf e.1 = cluster then
    e.2.waves.flatMap (fun w => w.2.splits.flatMap (fun x => match x.2.hold with | some h => h.walks | none => [])) else [])
/-- Ticks until one of a die's four page walkers is free (R293). -/
def State.walkerWait (s : State) (die : Nat) : Nat :=
  let busy := s.clusters.flatMap (fun e =>
    let core := if e.1 < 96 then 8 * e.1 else e.1 + 672
    if dieOf core = die then
      (s.clusterWalks e.1).foldl (fun l k => if l.any (fun x => x.1 == k.va / 65536) then l else (k.va / 65536, k.rem * icTicks e.2.ratio e.2.mhz) :: l) [] else [])
  ((busy.map (·.2)).mergeSort (fun a b => decide (b ≤ a))).getD 3 0
/-- New walks for pages: a page that the cluster walks already is found by that walk, another one waits for a walker and takes a free
time (R293). Assumption 75. -/
def State.walksFor (s : State) (core : Nat) (pages : List Nat) (fr : Nat) : List Walk :=
  let cl := s.cluster (clusterOf core)
  let wait := s.walkerWait (dieOf core)
  (List.range pages.length).map (fun k =>
    let va := pages.getD k 0
    match (s.clusterWalks (clusterOf core)).find? (fun x => x.va / 65536 == va / 65536) with
    | some x => { va := va, rem := x.rem }
    | none => { va := va, rem := wait / icTicks cl.ratio cl.mhz + Config.freeNat (fr + k) })

/-- A C slot whose passed wait is an acquire (R134). -/
def waitsTags : Instr → Bool | .twany _ => true | .twall _ => true | .tffr _ _ => true | _ => false
/-- An access with lanes whose page has no translation holds the bundle: no slot acts, the lanes that hit are sent, and
walks start for the missing pages (R160). The lanes sent follow the tag wait that the bundle has passed: the core's L1 lines go before them
(R134, R156). -/
def State.holdBundle (s : State) (i : Issue) (f : MForm) (fetchKind : VKind) (data : Nat → Nat × Nat) : State :=
  let s := if waitsTags i.bundle.c then s.acquire i.core else s
  let miss := s.missing i.core i.pre i.sp f
  let send := State.lanesLeft i f &&& ~~~ miss
  let reqs := s.accesses i f send data
  let c := s.core i.core
  let early := match i.gatherOp with | some g => c.ops.find? (fun o : VarOp => o.id == g) | none => none
  let det := s.isDet i.core
  let rem := if det then (s.ratio i.core).scale 1200 else Config.freeNat s.fresh
  let reqs := (List.range reqs.length).map (fun k =>
    let r := reqs.getD k { lane := 0, loc := .sp 0, va := 0, rem := 0, data := 0, data2 := 0, done := true, err := false, val := 0 }
    let k' := if r.remote then reqs.findIdx (fun q => decide (q.loc.sec = r.loc.sec)) else k
    { r with rem := if det then rem else Config.freeNat (s.fresh + 1 + k') })
  let op : VarOp := { id := s.nextId, wave := i.wave, uid := i.pre.uid, grid := i.pre.grid, split := i.split, pc := i.sp.pc,
                      handler := i.pre.inTrap, flag := none, rem := rem, padded := det, kind := fetchKind,
                      reqs := (match early with | some o => o.reqs | none => []) ++ reqs }
  let ops := (match early with | some o => c.ops.filter (fun x => x.id != o.id) | none => c.ops) ++ (if op.reqs.isEmpty then [] else [op])
  let pages := ((lanesOf miss).map (fun l => ((f.addr c i.pre i.sp l) % 2 ^ 64).toNat / 65536 * 65536)).dedup
  let walks := s.walksFor i.core pages (s.fresh + 65)
  let s := { s.setCore i.core { c with ops := ops } with nextId := s.nextId + 1, fresh := s.fresh + 256, issue := none }
  s.updIssSplit i (fun sp => { sp with gather := i.gather ||| send, gatherOp := if op.reqs.isEmpty then none else some op.id,
                                       hold := some { fetch := false, gather := i.gather ||| send, op := none, walks := walks } })

/-- An access of the bundle being executed: its traps, its hold, or its effect. -/
def State.memOp (s : State) (ins : Instr) (fsel : FSel) (kind : Issue → VKind) (data : State → Issue → MForm → Nat → Nat × Nat)
    (eff : Issue → MForm → State) : Out :=
  match mform ins with
  | none => .next s
  | some f =>
    match s.issue with
    | none => .next s
    | some i =>
      match s.memTrap i f fsel with
      | some t => .next (s.trapIssue i t)
      | none =>
        if s.missing i.core i.pre i.sp f != 0#64 then .next (s.holdBundle i f (kind i) (data s i f))
        else .next (eff i f)

end Sys2Proof.Machine
end

