-- ==== Sys2Proof/Machine/Mem.lean ====
section
/-! DEFINITION. Loads, stores, atomics, WAITA, fences, flush and prefetch, and their completion (R158 to R175). -/

namespace Sys2Proof.Machine

/-- The fixed-latency loads of the scratchpad: they read at their place in the issue order and land in the M latch. -/
def State.spLoadFixed (s : State) (i : Issue) (f : MForm) : State :=
  let c := s.core i.core
  let m := f.lanes i.pre i.sp
  let rot := f.rot c i.pre
  let vals := (lanesOf m).foldl (fun v l => RMap.wr v l (BitVec.ofNat 64 (c.spLoad (rotE (f.addr c i.pre i.sp l).toNat rot) f.size))) []
  let d := s.destOf i f.data (f.size == 8)
  d.2.launchRes i true (6 + (f.degree c i.pre i.sp - 1) + i.pen) d.1 m (f.size == 8) f.data.isS vals 0#6
    ((lanesOf m).map (fun l => (l, (f.addr c i.pre i.sp l).toNat)))
/-- Bytes a scratchpad store writes: ascending lanes, the highest standing (R164). -/
def State.spBytes (s : State) (i : Issue) (f : MForm) : List Req :=
  let c := s.core i.core
  let rot := f.rot c i.pre
  (lanesOf (f.lanes i.pre i.sp)).flatMap (fun l =>
    let e := rotE (f.addr c i.pre i.sp l).toNat rot
    let x := s.mData i f l
    (List.range f.size).map (fun k =>
      { lane := l, loc := .sp (rowAt e k), va := (f.addr c i.pre i.sp l).toNat, rem := 0, data := x / 256 ^ k % 256, data2 := 0, done := false, err := false,
        val := (c.spRd (rowAt e k)).toNat }))
/-- A store to the scratchpad enters flight; later wave accesses see it, engines from its perform point (R153, R162). An ST.x
under DET performs at its place in the issue order, and its count alone is padded (R184). -/
def State.spStore (s : State) (i : Issue) (f : MForm) (flag : Option Nat) (rem : Nat) (padded : Bool) : State :=
  let reqs := (s.spBytes i f).map (fun r : Req => { r with rem := rem, done := padded })
  let op : VarOp := { id := s.nextId, wave := i.wave, uid := i.pre.uid, grid := i.pre.grid, split := i.split, pc := i.sp.pc,
                      handler := i.pre.inTrap, flag := flag, rem := rem, padded := padded, kind := .spStore, reqs := reqs }
  let write := fun (c : Core) (r : Req) => match r.loc with
    | .sp e => if padded then (c.spForget (fun _ => true) e).spPoke e (BitVec.ofNat 8 r.data) else c
    | _ => c
  let s := s.updCore i.core (fun c => let c := reqs.foldl write c; { c with ops := c.ops ++ [op] })
  { s with nextId := s.nextId + 1, fresh := s.fresh + 128 }.updIss i (fun w => w.raise flag)

/-- A load of R164 in any space and form. -/
def State.load (s : State) (ins : Instr) (o : Mem) : Out :=
  let kind := fun (i : Issue) =>
    let d := match mform ins with | some f => (s.destOf i f.data (f.size == 8)).1 | none => Dest.none
    VKind.load d o.size.bytes (o.space == .c) (if o.space = .h then .cg else o.cop)
  s.memOp ins o.fsel kind (fun _ _ _ _ => (0, 0)) (fun i f =>
    if fixedMem ins f then s.spLoadFixed i f
    else
      let m := f.lanes i.pre i.sp
      let s' := s.killDest i (s.destOf i f.data (f.size == 8)).1 m
      if o.space = .s then
        let c := s.core i.core
        let reqs := (s.accesses i f m (fun _ => (0, 0))).map (fun r => match r.loc with
          | .sp e => { r with done := true, val := c.spLoad e f.size } | _ => r)
        s'.sendOp i (i.flagOf o.fsel) (padFig (s.ratio i.core) .ldx) (kind i) reqs
      else s'.sendOp i (i.flagOf o.fsel) (padFig (s.ratio i.core) .load) (kind i) (s.accesses i f (State.lanesLeft i f) (fun _ => (0, 0))))
/-- A store of R164 in any space and form. -/
def State.store (s : State) (ins : Instr) (o : Mem) : Out :=
  let kind := fun (_ : Issue) => VKind.store o.size.bytes o.cop
  let data := fun (s : State) (i : Issue) (f : MForm) (l : Nat) => (s.mData i f l, 0)
  s.memOp ins o.fsel kind data (fun i f =>
    if fixedMem ins f then s.spStore i f none (3 + (f.degree (s.core i.core) i.pre i.sp - 1) + i.pen) false
    else if o.space = .s then
      let det := s.isDet i.core
      let rem := if det then padFig (s.ratio i.core) .stx
        else if f.lanes i.pre i.sp = 0#64 then 1 else 1 + Config.freeNat s.fresh
      s.spStore i f (i.flagOf o.fsel) rem det
    else s.sendOp i (i.flagOf o.fsel) (padFig (s.ratio i.core) .store) (kind i) (s.accesses i f (State.lanesLeft i f) (data s i f)))

/-- LD (R164). -/
def execLd (o : Mem) (s : State) : Out := s.load (.ld o) o
/-- LD.x (R164). -/
def execLdX (o : Mem) (s : State) : Out := s.load (.ldX o) o
/-- LDB (R164). -/
def execLdb (o : Mem) (s : State) : Out := s.load (.ldb o) o
/-- LDT (R164). -/
def execLdt (o : Mem) (s : State) : Out := s.load (.ldt o) o
/-- ST (R164). -/
def execSt (o : Mem) (s : State) : Out := s.store (.st o) o
/-- ST.x (R164). -/
def execStX (o : Mem) (s : State) : Out := s.store (.stX o) o
/-- STB (R164). -/
def execStb (o : Mem) (s : State) : Out := s.store (.stb o) o
/-- STT (R164). -/
def execStt (o : Mem) (s : State) : Out := s.store (.stt o) o

/-! ### Atomics -/

/-- Atomics of the scratchpad read and write at one place of the issue order, lane by lane (R162, R165). -/
def spAtomics (op : AtomOp) (ty : ATy) : Core → List Req → Core × List Req
  | c, [] => (c, [])
  | c, r :: rs =>
    match r.loc with
    | .sp e =>
      let n := if ty.wide then 8 else 4
      let old := c.spLoad e n
      let p := spAtomics op ty (c.spNow e n (atomNew op ty old r.data r.data2)) rs
      (p.1, { r with done := true, val := old } :: p.2)
    | _ => let p := spAtomics op ty c rs; (p.1, r :: p.2)
/-- An operation without memory access of its own enters flight with a count. Assumption 3. -/
def State.sendPlain (s : State) (i : Issue) (flag : Option Nat) (rem : Nat) (kind : VKind) (reqs : List Req := []) : State :=
  let op : VarOp := { id := s.nextId, wave := i.wave, uid := i.pre.uid, grid := i.pre.grid, split := i.split, pc := i.sp.pc,
                      handler := i.pre.inTrap, flag := flag, rem := rem, padded := s.isDet i.core, kind := kind, reqs := reqs }
  { s.updCore i.core (fun c => { c with ops := c.ops ++ [op] }) with nextId := s.nextId + 1, fresh := s.fresh + 1 }.updIss i (fun w => w.raise flag)
/-- An atomic with acquire order is followed by the acquire it stands for (R167, R171), which is no operation of its own (R183).
Assumption 34. -/
def State.acqFence (s : State) (i : Issue) (o : Atom) (lanes : Lanes) : State :=
  if lanes = 0#64 ∨ (o.ord ≠ .acq ∧ o.ord ≠ .ar) then s else s.sendPlain i none 0 .acqPart
/-- ATOM and CAS (R165 to R167). -/
def State.atomic (s : State) (ins : Instr) (o : Atom) (op : AtomOp) : Out :=
  let kind := fun (i : Issue) =>
    VKind.atom (match mform ins with | some f => (s.destOf i f.data o.ty.wide).1 | none => Dest.none) op o.ty o.ord
  let data := fun (s : State) (i : Issue) (f : MForm) (l : Nat) =>
    if op = .cas then s.casData i o l else (s.mData i f l, 0)
  s.memOp ins o.fsel kind data (fun i f =>
    let s' := s.killDest i (s.destOf i f.data o.ty.wide).1 (f.lanes i.pre i.sp)
    if o.space = .s then
      let reqs := s.accesses i f (f.lanes i.pre i.sp) (data s i f)
      let r := spAtomics op o.ty (s'.core i.core) reqs
      let s' := reqs.foldl (fun s r => match r.loc with | .sp e => s.wakeSp i.core e | _ => s) (s'.setCore i.core r.1)
      (s'.sendOp i (i.flagOf o.fsel) (padFig (s.ratio i.core) .atomS) (kind i) r.2).acqFence i o (f.lanes i.pre i.sp)
    else (s'.sendOp i (i.flagOf o.fsel) (padFig (s.ratio i.core) .atomG) (kind i) (s.accesses i f (State.lanesLeft i f) (data s i f))).acqFence i o
      (f.lanes i.pre i.sp))
/-- ATOM.add (R165). -/
def execAtomAdd (o : Atom) (s : State) : Out := s.atomic (.atomAdd o) o .add
/-- ATOM.min (R165). -/
def execAtomMin (o : Atom) (s : State) : Out := s.atomic (.atomMin o) o .min
/-- ATOM.max (R165). -/
def execAtomMax (o : Atom) (s : State) : Out := s.atomic (.atomMax o) o .max
/-- ATOM.and (R165). -/
def execAtomAnd (o : Atom) (s : State) : Out := s.atomic (.atomAnd o) o .and
/-- ATOM.or (R165). -/
def execAtomOr (o : Atom) (s : State) : Out := s.atomic (.atomOr o) o .or
/-- ATOM.xor (R165). -/
def execAtomXor (o : Atom) (s : State) : Out := s.atomic (.atomXor o) o .xor
/-- ATOM.xchg (R165). -/
def execAtomXchg (o : Atom) (s : State) : Out := s.atomic (.atomXchg o) o .xchg
/-- ATOM.incw (R165). -/
def execAtomIncw (o : Atom) (s : State) : Out := s.atomic (.atomIncw o) o .incw
/-- CAS (R166). -/
def execCas (o : Atom) (s : State) : Out := s.atomic (.cas o) o .cas

/-! ### WAITA (R168, R169) -/

/-- A WAITA that completes spuriously reads once more (R168). -/
def VarOp.spur (fr : Nat) (o : VarOp) : VarOp :=
  match o.kind with
  | .waita _ _ _ _ _ => if o.padded then o else { o with reqs := o.reqs.map (fun r : Req =>
      if r.data2 = 1 then r else { r with data2 := 2, done := false, rem := Config.freeNat fr }) }
  | _ => o
/-- The wait of a timeout code in issue cycles (R70). -/
def waitTime (k : BitVec 3) : Option Nat := if k = 7#3 then none else some (2 ^ (10 + 2 * k.toNat))
/-- Read the word of a WAITA; none is an uncorrectable error. -/
def State.waitRead (s : State) (core : Nat) (loc : Loc) (size : Nat) : Option Nat :=
  match loc with
  | .sp a => some ((s.core core).spLoad a size)
  | .pa a => if isRemote a then none else s.mem.load a size
  | .stg a => some (Memory.load s.mem.stg a size)
/-- The watch table has 16 entries: a WAITA takes its watch before its first read, and when the table is full the oldest entry
completes spuriously, with a read of its word still to come (R168, R306). -/
def State.watchAdd (s : State) (core : Nat) (o : VarOp) : State :=
  let c := s.core core
  let s := if c.watch.length < 16 then s
    else match c.watch with
      | e :: _ => { (s.updOp core e.1 (VarOp.spur s.fresh)).updCore core (fun c => { c with watch := c.watch.tail }) with fresh := s.fresh + 1 }
      | [] => s
  let sec := match o.reqs with | r :: _ => r.loc.sec.2 | [] => 0
  s.updCore core (fun c => { c with watch := c.watch ++ [(o.id, sec)] })
/-- WAITA enters flight: its first read is made at once in the scratchpad, else when it performs. A request's `data2` is 1 once a read
has ended the wait and 2 for a spurious completion. -/
def execWaita (o : Waita) (s : State) : Out :=
  let size := if o.wide then 8 else 4
  let mk := fun (i : Issue) =>
    let cmp := (scalarData (s.core i.core) i.pre o.data).toNat % 2 ^ (8 * size)
    let every := padFig (s.ratio i.core) (if o.space = .s then .ldx else .load)
    VKind.waita (i.pre.scalarDest o.data) cmp size ((waitTime o.tmo).map (· + (s.cluster (clusterOf i.core)).ic)) every
  s.memOp (.waita o) o.fsel mk (fun _ _ _ _ => (0, 0)) (fun i f =>
    let reqs := s.accesses i f (State.lanesLeft i f) (fun _ => (0, 0))
    let reqs := if o.space = .s then reqs.map (fun r => { r with val := ((s.waitRead i.core r.loc size).getD 0), done := true, again := true }) else reqs
    let cmp := (scalarData (s.core i.core) i.pre o.data).toNat % 2 ^ (8 * size)
    let reqs := reqs.map (fun r : Req => if r.done && r.val != cmp then { r with data2 := 1 } else r)
    let s' := s.killDest i (i.pre.scalarDest o.data) (f.lanes i.pre i.sp)
    let every := padFig (s.ratio i.core) (if o.space = .s then .ldx else .load)
    let t := s'.sendOp i (i.flagOf o.fsel) every (mk i) reqs
    if s.isDet i.core || (f.lanes i.pre i.sp) == 0#64 then t
    else match t.op? i.core s'.nextId with | some op => t.watchAdd i.core op | none => t)

/-- WAITA ends with a value: the scalar is written and the flag count falls. -/
def State.waitDone (s : State) (core : Nat) (o : VarOp) (d : Dest) : State :=
  ((s.writeBack core o d).deferMem core o).retireOp core o
/-- STALLED counts a timeout, saturating (R168). -/
def State.stalled (s : State) (core : Nat) (o : VarOp) : State :=
  s.updWave core o.wave (fun w => if w.uid = o.uid ∧ w.stalled ≠ BitVec.allOnes 32 then { w with stalled := w.stalled + 1 } else w)
/-- An operation whose one access failed. -/
def VarOp.failed (o : VarOp) : VarOp := { o with reqs := o.reqs.map (fun r => { r with done := true, err := true }) }
/-- Every read of a WAITA returns a value; none if the access failed. -/
def State.waitVal (s : State) (core : Nat) (o : VarOp) (size : Nat) : Option VarOp :=
  match o.reqs with
  | r :: _ => (s.waitRead core r.loc size).map (fun v => { o with reqs := [{ r with done := true, again := true, val := v }] })
  | [] => some o
/-- A read of a WAITA at home drops the core's copy of the sector, so that no later load of the core reads an older value (R156, R298). -/
def State.waitDrop (s : State) (core : Nat) (o : VarOp) : State :=
  o.reqs.foldl (fun s r => match r.loc with | .pa a => s.updCore core (fun k => { k with l1 := NMap.del k.l1 (sector a) }) | _ => s) s
/-- A read of a WAITA follows the core's older accesses to its sector (R280, R298). Assumption 23. -/
def waitHeld (ops : List VarOp) (o : VarOp) : Bool := o.reqs.any (fun r => olderHit ops o.id r)
/-- A read of a pending WAITA: it ends on a value other than the comparand and when it is spurious, else it waits on; a read that ended
the wait earlier completes it. -/
def State.waitStep (s : State) (core id : Nat) : State :=
  match s.op? core id with
  | none => s
  | some o =>
    match o.kind, o.reqs with
    | .waita _ _ _ _ _, [] => s.retireOp core o
    | .waita d cmp size _ _, r :: _ =>
      if r.data2 = 1 then s.waitDone core o d
      else if waitHeld (s.core core).ops o then s
      else match s.waitVal core o size with
        | none => s.waitDone core o.failed d
        | some o' =>
          let s := s.waitDrop core o
          let v := match o'.reqs with | r :: _ => r.val | [] => 0
          if v ≠ cmp ∨ r.data2 = 2 then s.waitDone core o' d else s.updOp core id (fun _ => o')
    | _, _ => s
/-- An uncorrectable error in a read of a WAITA ends it with a deferred MEMERR (R161). -/
def State.waitErr (s : State) (core id : Nat) : State :=
  match s.op? core id with
  | none => s
  | some o => match o.kind with | .waita d _ _ _ _ => (s.countUce (clusterOf core)).waitDone core o.failed d | _ => s
/-- A wake event, and the first read of a WAITA (R168). -/
def execWaitaWake (core : Nat) (x : WaitRead) (s : State) : Out := .next (if x.err then s.waitErr core x.id else s.waitStep core x.id)
/-- The deadline passes: a last read, and STALLED counts if the word still equals the comparand (R168). -/
def execWaitaTimeout (core : Nat) (x : WaitRead) (s : State) : Out :=
  .next (if x.err then s.waitErr core x.id else match s.op? core x.id with
    | none => s
    | some o => match o.kind with
      | .waita d cmp size _ _ =>
        if o.reqs.any (fun r => r.data2 == 1) then s.waitDone core o d
        else if waitHeld (s.core core).ops o then s
        else match s.waitVal core o size with
          | none => s.waitDone core o.failed d
          | some o' =>
            let s := s.waitDrop core o
            let v := match o'.reqs with | r :: _ => r.val | [] => 0
            (if v = cmp ∧ o'.reqs ≠ [] then s.stalled core o else s).waitDone core o' d
      | _ => s)
/-- A read of a WAITA under DET: it ends on another value or past the deadline, else it reads again after the padded
figure; a scratchpad read takes its value at its start (R169). -/
def execWaitaDetReread (core : Nat) (x : WaitRead) (s : State) : Out :=
  .next (if x.err then s.waitErr core x.id else match s.op? core x.id with
    | none => s
    | some o => match o.kind with
      | .waita d cmp size dl every =>
        match o.reqs with
        | [] => s.retireOp core o
        | r :: _ =>
          let now := match r.loc with | .sp _ => some r.val | l => s.waitRead core l size
          match now with
          | none => s.waitDone core o.failed d
          | some v =>
            let s := s.waitDrop core o
            let o' := { o with reqs := [{ r with done := true, val := v }] }
            let late := match dl with | some t => decide (t ≤ (s.cluster (clusterOf core)).ic) | none => false
            if v ≠ cmp then s.waitDone core o' d
            else if late then (s.stalled core o).waitDone core o' d
            else
              let nxt := match r.loc with | .sp a => (s.core core).spLoad a size | _ => v
              s.updOp core x.id (fun _ => { o with rem := every, reqs := [{ r with done := true, val := nxt }] })
      | _ => s)

/-! ### Invalidation, fences, flush and prefetch -/

/-- L1INV (R170). -/
def execL1inv (p : Pred) (s : State) : Out :=
  s.slotOp (fun _ => none) (fun i => if i.act p = 0#64 then s else s.updCore i.core (fun c => c.l1Drop true))

/-- The count of an operation: padded under DET, 1 without an active lane, else free. -/
def State.count (s : State) (i : Issue) (p : Pred) (pad : Nat) : Nat :=
  if s.isDet i.core then pad else if i.act p = 0#64 then 1 else 1 + Config.freeNat s.fresh

/-- FENCE: it is satisfied when the wave's earlier accesses have performed (R171). Without an active lane it orders nothing; its count
falls in the next cycle, under DET when it would with an active lane (R159, R184). -/
def execFence (p : Pred) (scope : Scope) (k : Ord) (f : FSel) (s : State) : Out :=
  s.slotOp (fun i => i.flagTrap f 2) (fun i =>
    s.sendPlain i (i.flagOf f) 1 (if i.act p ≠ 0#64 then .fence scope k else if s.isDet i.core then .idleFence k else .empty))
/-- Sectors of a virtual range that are mapped, and with `perm` readable, in address order: FLUSH skips pages without a mapping,
BPREF drops those without permission too (R172, R173). -/
def State.rangeSecs (s : State) (core base len : Nat) (perm : Bool) : List Nat :=
  match s.partOf core with
  | none => []
  | some p =>
    if len = 0 then []
    else (List.range ((base + len - 1) / 256 - base / 256 + 1)).filterMap (fun k =>
      let x := walkAll s.mem p ((base / 256 + k) * 256 % 2 ^ 64)
      match (if perm then checkPerm x .rd else x) with
      | .ok pa _ => if isRemote pa then none else some (pa / 256)
      | _ => none)
/-- The first address of a range whose table entry cannot be read: a failed access of FLUSH, a MEMERR of its split (Table 13.8, R161). -/
def State.rangeErr (s : State) (core base len : Nat) : List Req :=
  match s.partOf core with
  | none => []
  | some p =>
    if len = 0 then []
    else ((List.range ((base + len - 1) / 65536 - base / 65536 + 1)).find? (fun k =>
      match walkAll s.mem p ((base / 65536 + k) * 65536 % 2 ^ 64) with | .err => true | _ => false)).toList.map (fun k =>
        { lane := 0, loc := .sp 0, va := (Nat.max base ((base / 65536 + k) * 65536)) % 2 ^ 64, rem := 0, data := 0, data2 := 0, done := true, err := true, val := 0 })
def rangeCount (base len : Nat) : Nat := if len = 0 then 0 else (base + len - 1) / 256 - base / 256 + 1
/-- Base and length of the range of FLUSH and BPREF. -/
def State.rangeOf (s : State) (i : Issue) (base : BitVec 6) (ofs : BitVec 16) : Nat × Nat :=
  let c := s.core i.core
  (((((readS c i.pre base.toNat).toNat : Int) + ofs.toInt) % 2 ^ 64).toNat, (readS c i.pre (base.toNat + 1)).toNat % 2 ^ 48)
/-- The staging sectors of a range that the core's partition owns; the others are skipped, as unmapped pages are, without a trap: R172
does not say whether WINRANGE holds for the range of a FLUSH (DESIGN CHOICE, assumption 76). (R172, R282) -/
def State.stageSecs (s : State) (core base len : Nat) : List Nat :=
  match s.partOf core with
  | none => []
  | some p => ((List.range (rangeCount base len)).map (fun k => base / 256 + k)).filter (fun k => s.mem.stageOk p.num (k * 256) 256)
/-- FLUSH (R172). -/
def execFlush (p : Pred) (base : BitVec 6) (ofs : BitVec 16) (staging : Bool) (f : FSel) (s : State) : Out :=
  s.slotOp (fun i => i.flagTrap f 2) (fun i =>
    let r := s.rangeOf i base ofs
    let secs := if staging then s.stageSecs i.core r.1 r.2 else s.rangeSecs i.core r.1 r.2 false
    s.sendPlain i (i.flagOf f) (s.count i p (padRange (s.ratio i.core) (rangeCount r.1 r.2)))
      (if i.act p = 0#64 then .empty else .flush staging secs) (if i.act p = 0#64 ∨ staging then [] else s.rangeErr i.core r.1 r.2))
/-- BPREF: the tag clears at issue and sets when the range is in L2 (R173). -/
def execBpref (p : Pred) (tag : BitVec 6) (base : BitVec 6) (ofs : BitVec 16) (f : FSel) (s : State) : Out :=
  s.slotOp (fun i => i.flagTrap f 2) (fun i =>
    let r := s.rangeOf i base ofs
    let s' := s.sendPlain i (i.flagOf f) (s.count i p (padRange (s.ratio i.core) (rangeCount r.1 r.2)))
      (.bpref tag.toNat (if i.act p = 0#64 then [] else s.rangeSecs i.core r.1 r.2 true))
    s'.updCore i.core (fun c => c.tagClear (laneBit tag.toNat)))
/-- PREF: no effect but its flag (R174). -/
def execPref (p : Pred) (_n : Byte) (_base : BitVec 6) (_ofs : BitVec 16) (f : FSel) (s : State) : Out :=
  s.slotOp (fun i => i.flagTrap f 2) (fun i => s.sendPlain i (i.flagOf f) (s.count i p (padFig (s.ratio i.core) .pref)) .pref)

/-! ### Completion events -/

/-- The lanes of an operation in flight perform, some of them with an uncorrectable error, which its cluster counts (R161, R353). -/
def State.progressErr (s : State) (core id : Nat) (err : Lanes) : State :=
  (if (s.op? core id).any (fun o => o.reqs.any (fun r => err.getLsbD r.lane && !r.err)) then s.countUce (clusterOf core) else s).progress core id err
/-- A variable-latency load's lanes perform and it writes the bank (R157, R161). -/
def execVariableLoadCompletion (core id : Nat) (err : Lanes) (s : State) : Out := .next (s.progressErr core id err)
/-- An atomic's lanes perform at home and it writes the bank (R165). -/
def execAtomicPerform (core id : Nat) (err : Lanes) (s : State) : Out := .next (s.progressErr core id err)
/-- A store's lanes perform (R153, R157, R297). -/
def execStorePerform (core id : Nat) (err : Lanes) (s : State) : Out := .next (s.progressErr core id err)
/-- FDIV completes (R103). -/
def execFdivCompletion (core id : Nat) (s : State) : Out := .next (s.progress core id 0#64)

/-- A fence's condition: the accesses before it in the wave have performed (R171). -/
def fenceOk (ops : List VarOp) (o : VarOp) : Bool :=
  match o.kind with
  | .fence _ k => !(earlierOpen ops o.uid o.id (k != .acq))
  | .idleFence k => !(earlierOpen ops o.uid o.id (k != .acq))
  | .acqPart => !(earlierOpen ops o.uid o.id false)
  | _ => true
/-- A fence is satisfied: an acquire drops the core's L1 (R171). -/
def execFenceSatisfied (core id : Nat) (s : State) : Out :=
  .next (match s.op? core id with
    | none => s
    | some o =>
      if fenceOk (s.core core).ops o then
        (match o.kind with
          | .fence _ k => if k = Ord.rel then s else s.acquire core
          | .acqPart => s.acquire core
          | _ => s).retireOp core o
      else s)
/-- Write a staging sector to its backing memory (R172, Table 13.2). -/
def Mems.flushStaging (m : Mems) (sec : Nat) : Mems :=
  let a := sec * 256
  match NMap.get? m.sstg (a / 2 ^ 21) with
  | none => m
  | some r =>
    if stageBytes r ≤ a % 2 ^ 21 then m
    else
      let back := bitsNat r.toNat 21 31 * 2 ^ 21 + a % 2 ^ 21
      let bytes := Memory.bytes m.stg a 256
      { m with home := Memory.storeBytes m.home back bytes, hbm := Memory.storeBytes m.hbm back bytes }
/-- Write one sector back if it is dirty; it stays in L2, a carrier sector with its written bits (R172, R290). -/
def Mems.flushSec (m : Mems) (sec : Nat) : Mems :=
  match NMap.get? m.l2 sec with | some l => if l.dirty then m.clean sec else m | none => m
/-- The wave's earlier stores have performed (R172). -/
def storesOpen (ops : List VarOp) (o : VarOp) : Bool :=
  ops.any (fun x => x.uid == o.uid && decide (x.id < o.id) && (match x.kind with | .store _ _ => true | .atom _ _ _ _ => true | _ => false))
/-- FLUSH completes once the range is written (R172); a page whose table entry could not be read defers a MEMERR (R295). -/
def execFlushCompletion (core id : Nat) (s : State) : Out :=
  .next (match s.op? core id with
    | none => s
    | some o => match o.kind with
      | .flush staging secs =>
        ((s.updMem (fun m => secs.foldl (fun m k => if staging then m.flushStaging k else m.flushSec k) m)).deferMem core o).retireOp core o
      | _ => s.retireOp core o)
/-- BPREF completes: the sectors are in L2 and its tag sets (R173). -/
def execBprefCompletion (core id : Nat) (s : State) : Out :=
  .next (match s.op? core id with
    | none => s
    | some o => match o.kind with
      | .bpref tag secs =>
        ((s.updMem (fun m => secs.foldl (fun m k => m.noteRead (k * 256) .cd) m)).updCore core (fun c => c.tagSet tag false)).retireOp core o
      | _ => s.retireOp core o)
/-- PREF ends (R174). -/
def execPrefCompletion (core id : Nat) (s : State) : Out :=
  .next (match s.op? core id with | none => s | some o => s.retireOp core o)

end Sys2Proof.Machine
end

