-- ==== Sys2Proof/Machine/GridOps.lean ====
section
/-! DEFINITION. Fields of a launch record (Tables 15.2 and 15.3), barriers' arrivals (R136), slices of a nest (R257, R258),
and the lanes that leave a split (R61, R142). -/

namespace Sys2Proof.Machine

/-- A field of word n of a launch record. -/
def recBits (r : List W64) (n lo w : Nat) : Nat := bitsNat (r.getD n 0#64).toNat lo w
def Grid.waves (g : Grid) : Nat := recBits g.record 0 48 8
def Grid.nv (g : Grid) : Nat := recBits g.record 0 40 8
def Grid.ns (g : Grid) : Nat := recBits g.record 0 32 8
def Grid.scratch (g : Grid) : Nat := recBits g.record 0 22 10
def Grid.quantum (g : Grid) : Bool := recBits g.record 0 20 1 == 1
def Grid.paired (g : Grid) : Bool := g.det || recBits g.record 0 19 1 == 1
def Grid.ratio (g : Grid) : Ratio := match recBits g.record 0 17 2 with | 0 => .half | 2 => .x2 | _ => .x1
def Grid.priv (g : Grid) : Bool := recBits g.record 0 15 1 == 1
def Grid.beyrum (g : Grid) : Bool := recBits g.record 0 14 1 == 1
def Grid.entry (g : Grid) : Nat := recBits g.record 3 0 48 / (if g.beyrum then 8 else 32)
def Grid.rb (g : Grid) : Nat := (g.record.getD 6 0#64).toNat
def Grid.word (g : Grid) (n : Nat) : Nat := (g.record.getD n 0#64).toNat
/-- The inherited range: first and last register, if declared (R47). -/
def Grid.inherit (g : Grid) : Option (Nat × Nat) :=
  if recBits g.record 11 16 1 = 1 then some (recBits g.record 11 0 8, recBits g.record 11 8 8) else none

/-- The grid a core's bundle belongs to. -/
def State.issGrid (s : State) (i : Issue) : Option Grid := s.grid? i.pre.grid

/-! ### Barriers -/

def Grid.touchBar (g : Grid) (id : BarId) : Grid :=
  if g.bars.any (fun b => b.id == id) then g else { g with bars := g.bars ++ [{ id := id, phase := 0 }] }

/-- A split arrives at a barrier (R136). Under DET a GBAR or SBAR counts 2,000 ic from the cluster's last arrival. -/
def State.arriveBar (s : State) (i : Issue) (key : BarKey) : State :=
  match s.issGrid i with
  | none => s
  | some g =>
    let id := barId key i.pre
    let s := s.updGrid g.id (fun g => g.touchBar id)
    let s := s.updIssSplit i (fun sp => { sp with bar := some { key := key, phase := g.opened id, opened := false, rel := none } })
    if g.det && key.far then s.countFrom g i.core id else s

/-! ### Slices of a nest -/

def prod (l : List Nat) : Nat := l.foldl (fun a b => a * b) 1
/-- Coordinates by dimension of point n: mixed radix over the visiting order, innermost fastest (R257). -/
def nestPoint (dims order : List Nat) (n : Nat) : List (Nat × Nat) :=
  (order.reverse.foldl (fun acc d => let b := dims.getD d 1; ((d, acc.2 % b) :: acc.1, acc.2 / b)) (([] : List (Nat × Nat)), n)).1
/-- The slice of a wave: from floor (p P / C) up to floor ((p + 1) P / C) (R258). -/
def Grid.slice (g : Grid) (core widx : Nat) : Nat × Nat :=
  let dims := match g.nest with | some n => n.1 | none => []
  let c := g.cores.length * g.waves
  let p := ((indexOf? g.cores core).getD 0) * g.waves + widx
  (p * prod dims / c, (p + 1) * prod dims / c)

/-! ### Lanes that leave a split -/

/-- Transitions of the reconvergence stack at a boundary (Table 2.5), until none applies. A place within an expansion is no boundary
(R146). -/
def Split.settle : Nat → Split → Split
  | 0, sp => sp
  | n + 1, sp =>
    match sp.stack with
    | [] => sp
    | e :: r =>
      if (sp.pc = e.join ∧ sp.mpc = none) ∨ sp.mask = 0#64 then
        if e.rejoin then Split.settle n { sp with mask := sp.mask ||| e.mask, pc := e.join, stack := r, mpc := none }
        else Split.settle n { sp with mask := e.mask, pc := e.pc, mpc := none, stack := { e with mask := sp.mask, rejoin := true } :: r }
      else sp
/-- A split leaves an expansion before its end: the MACRO counts as one op, and an index it drew is consumed (R40, R140, R146).
Assumption 26. -/
def Wave.leaveMacro (w : Wave) (n : Nat) : Wave :=
  match (w.split n).mpc with
  | some m => { (w.updSplit n (fun sp => { sp with mpc := none })) with retc := w.retc + 1, rngidx := if rngMark ≤ m then w.rngidx + 1 else w.rngidx }
  | none => w
/-- A split with no lane and no entry has ended (R61); a wave without split has exited (R142). Its results on their way land in the
bank (R54). -/
def Wave.reap (w : Wave) (n : Nat) : Wave :=
  let sp := (w.split n).settle 20
  let splits := if sp.mask = 0#64 ∧ sp.stack = [] then NMap.del w.splits n else NMap.put w.splits n sp
  { w with splits := splits, exited := splits.isEmpty, drain := if sp.mask = 0#64 ∧ sp.stack = [] then w.drain ++ sp.win else w.drain }

end Sys2Proof.Machine
end

