-- ==== Sys2Proof/Machine/Sets.lean ====
section
/-! DEFINITION. Set-reduce loads and engine records (R236, R238, R247 to R253). -/

namespace Sys2Proof.Machine

/-- Logical index of a core in its partition, and the core of a logical index (R319). -/
def State.lcoreOf (s : State) (core : Nat) : Nat :=
  match s.partOf core with | some p => 8 * ((indexOf? p.clusters (core / 8)).getD 0) + core % 8 | none => 0
def Part.physCore (p : Part) (l : Nat) : Option Nat := (p.clusters[l / 8]?).map (fun c => 8 * c + l % 8)

/-- Write a record of the engine record area with .cg; a record that cannot be written is dropped and RECLOST sets (R238). -/
def State.writeRecord (s : State) (core grid ofs : Nat) (words : List W64) : State :=
  match s.grid? grid, s.partOf core with
  | some g, some p =>
    match vaStore s.mem p ((g.rb + 4096 * s.lcoreOf core + ofs) % 2 ^ 64) (8 * words.length) (leNat (words8 words)) with
    | some m =>
      match translate s.mem p ((g.rb + 4096 * s.lcoreOf core + ofs) % 2 ^ 64) .wr with
      | .ok pa _ => { s with mem := m }.wake (.pa pa)
      | _ => { s with mem := m }
    | none => s.updPart p.num (fun p => { p with lstat := p.lstat ||| 0x20000#64 })
  | _, some p => s.updPart p.num (fun p => { p with lstat := p.lstat ||| 0x20000#64 })
  | _, none => s

/-- Identities of the set reductions (Table 1.5). -/
def setIdent : SetOp → Nat
  | .addF32 => 0x80000000 | .addBf16 => 0x80008000 | .minF32 => 0x7F800000 | .maxF32 => 0xFF800000
  | .addI32 => 0 | .and => 0xFFFFFFFF | .or => 0 | .xor => 0
/-- One combine of a set reduction on 32-bit words (R250). -/
def setComb (op : SetOp) (a b : Nat) : Nat × AFlags :=
  match op with
  | .addF32 => finish .f32 .rn false 0 (faddX false (decF .f32 a) (decF .f32 b))
  | .addBf16 =>
    let lo := finish .bf16 .rn false 0 (faddX false (decF .bf16 (a % 65536)) (decF .bf16 (b % 65536)))
    let hi := finish .bf16 .rn false 0 (faddX false (decF .bf16 (a / 65536)) (decF .bf16 (b / 65536)))
    (lo.1 + 65536 * hi.1, lo.2 ||| hi.2)
  | .minF32 => fminmax .f32 false a b
  | .maxF32 => fminmax .f32 true a b
  | .addI32 => ((a + b) % 2 ^ 32, 0#6)
  | .and => (a &&& b, 0#6)
  | .or => (a ||| b, 0#6)
  | .xor => (a ^^^ b, 0#6)
def setTree (op : SetOp) (l : List Nat) : Nat × AFlags := treeReduce (setComb op) (setIdent op) (l.map (fun x => (x, 0#6)))

/-- The address of an LDSET and its traps (R249). -/
def State.ldsetAddr (s : State) (i : Issue) (o : Ldset) : Nat :=
  affBase (readS (s.core i.core) i.pre o.base.toNat) + 256 * o.off.toNat
def State.ldsetBad (s : State) (i : Issue) (o : Ldset) : Option TrapInfo :=
  match i.flagTrap o.fsel 2 with
  | some t => some t
  | none =>
    if i.act o.p = 0#64 then none
    else
      let x := readS (s.core i.core) i.pre o.base.toNat
      let a := s.ldsetAddr i o
      let filled := match s.issGrid i with | some g => (match NMap.get? g.sets o.set.toNat with | some l => !l.isEmpty | none => false) | none => false
      if !filled then some (i.fault .illop 2)
      else if affRsv x ≠ 0 ∨ (s.core i.core).size * 1024 < a + 256 then some { i.fault .sprange 2 with addr := a }
      else if a % 256 ≠ 0 then some { i.fault .misalign 2 with addr := a }
      else none

/-- A block of the grid is on a core, or saved from it (R248). -/
def Grid.onCore (g : Grid) (core : Nat) : Bool :=
  g.blocks.any (fun e => match e.2 with | .on c => c == core | .savedOn c => c == core | _ => false)
/-- A block of a grid on a core has not exited: a wave of it still runs. -/
def State.runsOn (s : State) (g : Grid) (core : Nat) : Bool :=
  g.onCore core && ((s.core core).waves.any (fun e => e.2.grid == g.id && !e.2.exited) || (s.core core).saved.any (fun b => b.grid == g.id))
/-- The number of the choice between old and new for the words of a core's scratchpad and registers that an engine reads while a store
is pending: the counter, or under DET one that the bundles issued on the core decide, so that two runs choose the same (R163, R186;
assumption 2). The word's index is added to it. -/
def State.pickBase (s : State) (core k : Nat) : Nat :=
  if s.isDet core then 2 ^ 448 + 2 ^ 25 * ((s.core core).waves.foldl (fun n w => n + w.2.retc.toNat) 0 + 2 ^ 80 * s.lcoreOf core)
  else s.fresh + 2 ^ 17 * k
/-- The 64 words of a member's row as one number: engines see either value of a word with a pending store (R253). -/
def Core.rowWords (c : Core) (a rot fr : Nat) (own : Bool) : Nat :=
  (List.range 64).foldl (fun x l =>
    let e := rotE (a + 4 * l) rot
    x + (if own then c.spLoad e 4 else c.spWordEng e (Config.freeBool (fr + e / 4))) * 2 ^ (32 * l)) 0

/-- LDSET: one request to each member; the loading core's own row is read at its place in the issue order (R249, R253). -/
def execLdset (o : Ldset) (s : State) : Out :=
  s.slotOp (fun i => s.ldsetBad i o) (fun i =>
    let m := i.act o.p
    let a := s.ldsetAddr i o
    let rot := affRot (readS (s.core i.core) i.pre o.base.toNat)
    let members := if m = 0#64 then [] else
      match s.issGrid i with | some g => (NMap.get? g.sets o.set.toNat).getD [] | none => []
    let d := (s.destOf i o.data false).1
    let reqs := members.map (fun l =>
      let own := l == i.pre.lcore
      ({ lane := l, loc := .sp a, va := 0, rem := 0, data := 0, data2 := 0, done := own, err := false,
         val := if own then (s.core i.core).rowWords a rot 0 true else 0 } : Req))
    let s := s.killDest i d m
    s.sendOp i (i.flagOf o.fsel) (padFig (s.ratio i.core) .ldset) (.ldset d o.set.toNat a rot o.op m i.pre.retc) reqs)

/-- Whether a member is present for a load, a block of the grid on it that has not exited: sampled now, or under DET by the last SBAR of the set the wave passed (R248). -/
def State.present (s : State) (core : Nat) (o : VarOp) (set l : Nat) : Bool :=
  match s.partOf core, s.grid? o.grid with
  | some p, some g =>
    match p.physCore l with
    | none => false
    | some c =>
      match (if o.padded then NMap.get? (s.wave core o.wave).setPhase set else none) with
      | some bits => bits.testBit l
      | none => s.runsOn g c
  | _, _ => false
/-- A member's request reaches its port: presence and row. An absent member has `data2` 1. -/
def State.askMember (s : State) (core : Nat) (o : VarOp) (set a rot : Nat) (r : Req) : Req :=
  if r.done || r.rem != 0 then r
  else if s.present core o set r.lane then
    match (s.partOf core).bind (fun p => p.physCore r.lane) with
    | some c => { r with done := true, val := (s.core c).rowWords a rot (s.pickBase c r.lane) false }
    | none => { r with done := true, data2 := 1 }
  else { r with done := true, data2 := 1 }
/-- The core whose row or port an error of an LDSET lies in: a member's, or the loader's (R251, R353). -/
def State.faultyCore (s : State) (core err : Nat) : Nat :=
  if err = 2 ^ 20 then core else ((s.partOf core).bind (fun p => p.physCore (err - 1))).getD core
/-- LDSET completes (R250 to R252); `err` names a faulty member plus one, 0 for none, 2 to the 20 for an error at the loader. An error shows
when the load has all its rows, under DET at the padded figure (R184); every completion but one with SETFLT writes its record. -/
def execLdsetCompletion (core id err : Nat) (s : State) : Out :=
  .next (match s.op? core id with
    | none => s
    | some o =>
      match o.kind with
      | .ldset d set a rot op mask retc =>
        let o := { o with reqs := o.reqs.map (s.askMember core o set a rot) }
        let s := { s with fresh := s.fresh + 2 ^ 25 }.updOp core id (fun _ => o)
        let s := if err = 0 then s else s.countUce (clusterOf (s.faultyCore core err))
        let err := if err = 0 then o.fail else err
        if mask = 0#64 then (if o.rem = 0 then s.retireOp core o else s)
        else if o.rem ≠ 0 ∨ !(o.reqs.all (·.done)) then s.updOp core id (fun _ => { o with fail := err })
        else if err ≠ 0 ∧ err ≠ 2 ^ 20 then
          (s.updOpSplit core o (fun sp => sp.defer (Deferred.mk true o.pc a 0#64 (err - 1) o.id))).retireOp core o
        else
          let word := fun (r : Req) (l : Nat) => if r.data2 = 1 then setIdent op else r.val / 2 ^ (32 * l) % 2 ^ 32
          let res := (lanesOf mask).foldl (fun (acc : RMap × AFlags) l =>
            let x := setTree op (o.reqs.map (fun r => word r l))
            (RMap.wr acc.1 l (BitVec.ofNat 64 x.1), acc.2 ||| x.2)) ([], 0#6)
          let absent := o.reqs.filter (fun r => r.data2 == 1)
          let w0 := 2 ^ 32 * absent.length + 2 ^ 16 * set + 2 * ((absent.map (·.lane)).headD 0x7FFF) + (if absent.isEmpty then 0 else 1)
          let s := s.writeRecord core o.grid (0x800 + 32 * o.wave) [BitVec.ofNat 64 w0, retc, 0#64, 0#64]
          if err = 2 ^ 20 then (s.updOpSplit core o (fun sp => sp.defer (Deferred.mk false o.pc a mask 0 o.id))).retireOp core o
          else
          let s := s.bank core o.wave d mask o.id res.1
          (s.updWave core o.wave (fun w => if w.uid = o.uid then { w with aflg := w.aflg ||| res.2 } else w)).retireOp core o
      | _ => s)

end Sys2Proof.Machine
end

