-- ==== Sys2Proof/Machine/Engine.lean ====
section
/-! DEFINITION. What the engines of a cluster share: memory as they see it, X-slot issue, tags and fault records
(R163, R225, R232 to R242, R295). -/

namespace Sys2Proof.Machine

/-- An error an engine meets: cause, translation kind, address (Tables 9.9 and 10.1). -/
structure EngErr where
  cause : Nat
  kind : Nat
  addr : Nat
  deriving DecidableEq, Repr

/-- Memories an engine reaches: a scratchpad with its rotation, translated memory, a window. -/
inductive EngSp where
  | sp (core rot : Nat)
  | g
  | h
  | l
  deriving DecidableEq, Repr

/-- n bytes as an engine reads them: a word with a pending wave store shows either value (R163). `rem` admits remote memory, whose
requests may join those that left from that place on (R382). -/
def State.engRead (s : State) (core : Nat) (p : Part) (sp : EngSp) (a n : Nat) (rem : Option Nat) : Except EngErr Nat × State :=
  match sp with
  | .sp k rot =>
    let c := s.core k
    (.ok (leNat ((List.range n).map (fun j => c.spByteEng (rotE (a + j) rot) (Config.freeBool (s.pickBase k 0 + rotE (a + j) rot / 4))))), { s with fresh := s.fresh + 2 ^ 17 })
  | .h => match s.mem.load (cisternBase + p.cisBase + a) n with
    | some x => (.ok x, s)
    | none => (.error ⟨2, 0, a⟩, s)
  | .l => (.ok (Memory.load s.mem.stg a n), s)
  | .g =>
    match s.engXlat core p a .rd with
    | (.ok pa _, s) =>
      if isRemote pa then
        match rem with
        | none => (.error ⟨1, 0, a⟩, s)
        | some k =>
          if s.linkUp then (.ok ((Config.freeWord s.fresh).toNat % 2 ^ (8 * n)), { s.sendPart k 0 pa n [] with fresh := s.fresh + 1 })
          else (.error ⟨6, 0, 0⟩, s)
      else match s.mem.load pa n with
        | some x => (.ok x, s.updMem (fun m => (m.noteRead pa .cg).noteCopy pa (dieOf core) .cg))
        | none => (.error ⟨2, 0, a⟩, s)
    | (.fault k, s) => (.error ⟨1, k, a⟩, s)
    | (.err, s) => (.error ⟨2, 0, a⟩, s)
/-- n bytes written by an engine. -/
def State.engWrite (s : State) (core : Nat) (p : Part) (sp : EngSp) (a n x : Nat) (rem : Option Nat) : Except EngErr Unit × State :=
  match sp with
  | .sp k rot =>
    let b := s.pickBase k 0
    let s := s.updCore k (fun c => (List.range n).foldl (fun c j =>
      c.spEngWr (rotE (a + j) rot) (BitVec.ofNat 8 (x / 256 ^ j)) (Config.freeBool (b + rotE (a + j) rot / 4))) c)
    (.ok (), { s with fresh := s.fresh + 2 ^ 17 }.wakeSp k (rotE a rot))
  | .h => match s.homeStore (cisternBase + p.cisBase + a) n x .cg with
    | some s => (.ok (), s)
    | none => (.error ⟨2, 0, a⟩, s)
  | .l => (.ok (), (s.updMem (fun m => { m with stg := Memory.store m.stg a n x })).wake (.stg a))
  | .g =>
    match s.engXlat core p a .wr with
    | (.ok pa _, s) =>
      if isRemote pa then
        match rem with
        | none => (.error ⟨1, 0, a⟩, s)
        | some k => if s.linkUp then (.ok (), s.sendPart k 1 pa n (natLE n x)) else (.error ⟨6, 0, 0⟩, s)
      else match s.homeStore pa n x .cg with
        | some s => (.ok (), s)
        | none => (.error ⟨2, 0, a⟩, s)
    | (.fault k, s) => (.error ⟨1, k, a⟩, s)
    | (.err, s) => (.error ⟨2, 0, a⟩, s)

/-! ### Tags of X-slot operations -/

def CTags.list : CTags → List Nat
  | .t0 => [] | .t1 a => [a.toNat] | .t2 a b => [a.toNat, b.toNat] | .t3 a b c => [a.toNat, b.toNat, c.toNat]
/-- Tags that uncompleted operations of a core will set (R233). -/
def State.tagsPending (s : State) (core : Nat) : List Nat :=
  let cl := s.cluster (clusterOf core)
  (cl.copies.filter (·.core == core)).map (·.ptag) ++ (cl.tasks.filter (·.core == core)).map (·.ptag) ++
  (cl.sides.filter (·.core == core)).map (·.ptag) ++ (cl.empties.filter (·.core == core)).map (·.ptag) ++
  (s.core core).ops.filterMap (fun o => match o.kind with | .bpref t _ => some t | _ => none)
/-- Consumed tags that do not read set as the bundle issues; a bit that was set satisfies the test at once (R234). -/
def Issue.unmet (i : Issue) (ct : CTags) : List Nat := (CTags.list ct).filter (fun t => !(i.tags.getLsbD t))
/-- Every tag an operation still waits for reads set (R234). -/
def State.tagsReady (s : State) (core : Nat) (ct : List Nat) : Bool := ct.all (fun t => (s.core core).tags.getLsbD t)

/-- An operation entered in the issue cycle under way: its own tests begin in the next one (R216, R225, R243). -/
def State.issuedNow (s : State) (id : Nat) : Bool := match s.cursor.bind (·.first) with | some n => decide (n ≤ id) | none => false
/-- An operation's tag completes (R233). -/
def State.setTag (s : State) (core tag : Nat) (err : Bool) : State := s.updCore core (fun c => c.tagSet tag err)

/-- The descriptor scalars of an X-slot operation, read at issue. -/
def State.descr (s : State) (i : Issue) (base : BitVec 6) (n : Nat) : List W64 :=
  (List.range n).map (fun k => readS (s.core i.core) i.pre (base.toNat + k))

/-- The padded figure of an operation without an active lane (R225). -/
def State.emptyPad (s : State) (core : Nat) : Nat := (s.ratio core).scale 32
/-- An X-slot operation without an active lane enqueues nothing: its tag clears, and sets when its consumed tags are
set, at issue + 1 if it consumes none; under DET at its padded figure after that (R225). -/
def State.xEmpty (s : State) (i : Issue) (o : XOp) : State :=
  let e : EmptyOp := { id := s.nextId, core := i.core, grid := i.pre.grid, uid := i.pre.uid, ptag := o.ptag.toNat, ctags := CTags.list o.ct, waits := i.unmet o.ct,
                       rem := if o.ct = CTags.t0 then some (1 + (if s.isDet i.core then s.emptyPad i.core else 0)) else none }
  ({ s with nextId := s.nextId + 1 }.updCluster (clusterOf i.core) (fun c => { c with empties := c.empties ++ [e] })).updCore
    i.core (fun c => c.tagClear (laneBit o.ptag.toNat))
/-- An engine operation whose block is saved away from its core stands still (R324). -/
def State.away (s : State) (core uid : Nat) : Bool := (s.core core).saved.any (fun b => b.waves.any (fun e => e.2.uid == uid))
/-- Such an operation's tags are all set: its tag sets, or under DET its count begins; or its count has ended (R225). -/
def execEmptyEngineOpTagSet (cluster id : Nat) (s : State) : Out :=
  .next (match (s.cluster cluster).empties.find? (fun e => e.id == id) with
    | none => s
    | some e =>
      if s.away e.core e.uid then s else
      let done := fun (s : State) => (s.updCluster cluster (fun c => { c with empties := c.empties.filter (fun x => x.id != id) })).setTag e.core e.ptag false
      match e.rem with
      | some 0 => done s
      | some _ => s
      | none =>
        if !(s.tagsReady e.core e.waits) then s
        else if s.isDet e.core then s.updCluster cluster (fun c => { c with empties := c.empties.map (fun x : EmptyOp =>
          if x.id = id then { x with rem := some (s.emptyPad e.core) } else x) })
        else done s)

end Sys2Proof.Machine
end

