-- ==== Sys2Proof/Machine/Copy.lean ====
section
/-! DEFINITION. Copy commands, operand-queue streams, remote copies and collectives (R239 to R246, R381 to R384). -/

namespace Sys2Proof.Machine

/-! ### Descriptors (Table 10.2) -/

def cw (w : List W64) (k lo n : Nat) : Nat := bitsNat (w.getD k 0#64).toNat lo n
def cpDims (w : List W64) : Nat := cw w 2 40 3 + 1
/-- Bounds and strides: two to a scalar from scalar k. -/
def cpHalf (w : List W64) (k i : Nat) : Nat := cw w (k + i / 2) (32 * (i % 2)) 32
def cpBounds (w : List W64) : List Nat := (List.range (cpDims w)).map (cpHalf w 3)
def cpTotal (w : List W64) : Nat := prod (cpBounds w)
/-- The width of a conversion format of R100 in bytes. -/
def fmtWidth (c : Nat) : Option Nat :=
  match FFmt.of c with
  | some (.ieee .f32) => some 4 | some (.ieee _) => some 2 | some (.p3109 _ p) => if p = 0#3 then none else some 1 | none => none
/-- Bytes of an element at the source and at the destination. -/
def cpSrcSize (w : List W64) : Nat := if cw w 2 16 8 = 0 then 2 ^ cw w 2 34 2 else (fmtWidth (cw w 2 16 8)).getD 1
def cpDstSize (w : List W64) : Nat := if cw w 2 16 8 = 0 then 2 ^ cw w 2 34 2 else (fmtWidth (cw w 2 24 8)).getD 1
/-- Coordinates of point n, the last dimension fastest. -/
def cpPoint (w : List W64) (n : Nat) : List Nat :=
  ((cpBounds w).reverse.foldl (fun (acc : List Nat × Nat) b => (acc.2 % b :: acc.1, acc.2 / b)) ([], n)).1
/-- The address of a point: base plus signed strides, exact (R240). -/
def cpAddr (w : List W64) (base k : Nat) (pt : List Nat) : Int :=
  (List.range (cpDims w)).foldl (fun (a : Int) i => a + (pt.getD i 0 : Int) * sext 32 (cpHalf w k i)) (base : Int)
def cpSrc (w : List W64) (pt : List Nat) : Int := cpAddr w (w.getD 0 0#64).toNat 6 pt
def cpDst (w : List W64) (pt : List Nat) : Int := cpAddr w (w.getD 1 0#64).toNat 9 pt
/-- Lowest and highest address of a side over the box. -/
def cpSpan (w : List W64) (base k : Nat) : Int × Int :=
  (List.range (cpDims w)).foldl (fun (a : Int × Int) i =>
    let d := ((cpBounds w).getD i 0 - 1 : Int) * sext 32 (cpHalf w k i)
    if d < 0 then (a.1 + d, a.2) else (a.1, a.2 + d)) ((base : Int), (base : Int))

/-- Spaces allowed to an opcode and side (Table 10.3). -/
def cpSpaceOk (k : CopyKind) (dst : Bool) (c : Nat) : Bool :=
  match c with
  | 2 => !dst
  | 6 => (k == .cpyo && !dst) || (k == .cpyq && dst)
  | 7 => false
  | _ => !(k == .cpyo && !dst) && !(k == .cpyq && dst)
/-- Reserved and zero fields, codes and formats of a copy descriptor (R242, first row; R382). -/
def cpForm (k : CopyKind) (w : List W64) (core : Nat) : Bool :=
  let s := cw w 2 0 3
  let d := cw w 2 4 3
  let unused := fun i => decide (cpDims w ≤ i) && (cpHalf w 3 i != 0 || cpHalf w 6 i != 0 || cpHalf w 9 i != 0)
  cw w 2 43 21 == 0 && cw w 2 32 2 == 0 && cw w 2 7 1 == 0 && cw w 2 3 1 == 0 && decide (cw w 2 40 3 ≤ 5) &&
  cpSpaceOk k false s && cpSpaceOk k true d &&
  (cw w 2 16 8 == 0) == (cw w 2 24 8 == 0) &&
  (cw w 2 16 8 == 0 || ((fmtWidth (cw w 2 16 8)).isSome && (fmtWidth (cw w 2 24 8)).isSome && cw w 2 34 2 == 0 && k != .cpyr)) &&
  (s == 0 || s == 5 || cw w 2 8 4 == 0) && (d == 0 || d == 5 || cw w 2 12 4 == 0) &&
  (if s = 5 ∨ d = 5 then cw w 2 36 3 != core % 8 else cw w 2 36 3 == 0) &&
  !((List.range 6).any unused) &&
  (!(s == 1 || s == 2) || cw w 0 48 16 == 0) && (!(d == 1) || cw w 1 48 16 == 0) &&
  (s != 6 || cw w 0 4 60 == 0) && (d != 6 || cw w 1 4 60 == 0)
/-- The core a scratchpad space names. -/
def cpCore (w : List W64) (core code : Nat) : Nat := if code = 5 then core / 8 * 8 + cw w 2 36 3 else core
/-- Whether one side leaves its scratchpad or window; staging of several slices is tested element by element (R242, R282). -/
def State.cpOut (s : State) (w : List W64) (core code base k size : Nat) (sp : Bool) : Bool :=
  if cpTotal w = 0 then false
  else
    let r := cpSpan w base k
    if sp then (code == 0 || code == 5) && (decide (r.1 < 0) || decide (((s.core core).size * 1024 : Int) < r.2 + size))
    else match s.partOf core with
      | none => false
      | some p =>
        if code = 3 then decide (r.1 < 0) || decide ((p.cisLen : Int) < r.2 + size)
        else if code = 4 then
          let out := fun (a : Int) => decide (a < 0) || !(s.mem.stageOk p.num a.toNat size)
          out r.1 || out r.2 || (r.1 / 2 ^ 21 != r.2 / 2 ^ 21 && (List.range (cpTotal w)).any (fun n => out (cpAddr w base k (cpPoint w n))))
        else false
/-- A side's base or used strides off its element size; a queue side has none. -/
def cpMis (w : List W64) (code base k size : Nat) : Bool :=
  code != 6 && (base % size != 0 || (List.range (cpDims w)).any (fun i => decide (sext 32 (cpHalf w k i) % (size : Int) ≠ 0)))
/-- The physical places of a side's pages, of every point's page that translates. -/
def State.cpPages (s : State) (core : Nat) (w : List W64) (base k : Nat) : List Nat :=
  let r := cpSpan w base k
  let pages := if cpTotal w = 0 then [] else if r.1 / 65536 = r.2 / 65536 then [r.1 / 65536]
    else ((List.range (cpTotal w)).map (fun n => cpAddr w base k (cpPoint w n) / 65536)).eraseDups
  match s.partOf core with
  | none => []
  | some p => pages.filterMap (fun g => match walkAll s.mem p (g * 65536 % 2 ^ 64).toNat with | .ok pa _ => some pa | _ => none)
/-- The remote side of CPYR, 1 the source and 2 the destination; 0 breaks R382: exactly one side is in .g and translates to remote pages,
all of them, and the other to none. -/
def State.cpFar (s : State) (w : List W64) (core : Nat) : Nat :=
  let pages := fun code base k => if code = 1 ∨ code = 2 then s.cpPages core w base k else []
  let a := pages (cw w 2 0 3) (w.getD 0 0#64).toNat 6
  let b := pages (cw w 2 4 3) (w.getD 1 0#64).toNat 9
  let all := fun code (l : List Nat) => code == 1 && !l.isEmpty && l.all isRemote
  if all (cw w 2 0 3) a && !(b.any isRemote) then 1 else if all (cw w 2 4 3) b && !(a.any isRemote) then 2 else 0
/-- The queue a stream uses is bound to the issuing wave (R58, R242). -/
def Core.boundTo (c : Core) (q wave : Nat) : Bool :=
  match NMap.get? c.queues q with | some x => x.bound == some wave | none => false
/-- The checks of R242 in order. An address trap names the base of the side that fails, SADDR or DADDR: Table 7.4 asks for the faulting address,
and the check is one of the whole box (DESIGN CHOICE, assumption 100). A CPYR with a zero bound touches no page, so R382's test of its pages
does not hold for it: it copies nothing (R240). -/
def State.copyBad (s : State) (i : Issue) (k : CopyKind) (o : XOp) : Option TrapInfo :=
  if i.act o.p = 0#64 then none
  else
    let w := s.descr i o.dbase 12
    let src := (w.getD 0 0#64).toNat
    let dst := (w.getD 1 0#64).toNat
    let sc := cw w 2 0 3
    let dc := cw w 2 4 3
    let bytes := cpTotal w * (if k = .cpyq then cpDstSize w else cpSrcSize w)
    if i.pre.inTrap || decide (i.pre.ns < o.dbase.toNat + 12) || !(cpForm k w i.core) then some (i.fault .illop 3)
    else if k = .cpyr ∧ cpTotal w ≠ 0 ∧ s.cpFar w i.core = 0 then some (i.fault .illop 3)
    else if s.cpOut w i.core sc src 6 (cpSrcSize w) true then some { i.fault .sprange 3 with addr := src }
    else if s.cpOut w i.core dc dst 9 (cpDstSize w) true then some { i.fault .sprange 3 with addr := dst }
    else if s.cpOut w i.core sc src 6 (cpSrcSize w) false then some { i.fault .winrange 3 with addr := src }
    else if s.cpOut w i.core dc dst 9 (cpDstSize w) false then some { i.fault .winrange 3 with addr := dst }
    else if cpMis w sc src 6 (cpSrcSize w) then some { i.fault .misalign 3 with addr := src }
    else if cpMis w dc dst 9 (cpDstSize w) then some { i.fault .misalign 3 with addr := dst }
    else if (k = .cpyq ∨ k = .cpyo) ∧ bytes % 256 ≠ 0 then some (i.fault .illop 3)
    else if k = .cpyq ∧ !((s.core i.core).boundTo (dst % 16) i.wave) then some (i.fault .illop 3)
    else if k = .cpyo ∧ !((s.core i.core).boundTo (src % 16) i.wave) then some (i.fault .illop 3)
    else none

/-- Enter a command into the cluster's copy queue (R239). -/
def State.copyPush (s : State) (i : Issue) (k : CopyKind) (o : XOp) (words : List W64) : State :=
  let c : CopyCmd := { id := s.nextId, core := i.core, wave := i.wave, uid := i.pre.uid, grid := i.pre.grid, kind := k, words := words,
                       ptag := o.ptag.toNat, ctags := CTags.list o.ct, waits := i.unmet o.ct, unit := none, started := false, done := 0, rem := 0, closed := false,
                       late := 0, buf := [], got := none, far := if k = .cpyr then s.cpFar words i.core else 0 }
  ({ s with nextId := s.nextId + 1 }.updCluster (clusterOf i.core) (fun cl => { cl with copies := cl.copies ++ [c] })).updCore
    i.core (fun c => c.tagClear (laneBit o.ptag.toNat))
def State.copyIssue (s : State) (k : CopyKind) (o : XOp) : Out :=
  s.slotOp (fun i => s.copyBad i k o) (fun i =>
    if i.act o.p = 0#64 then s.xEmpty i o else s.copyPush i k o (s.descr i o.dbase 12))
/-- CPY (R239 to R242). -/
def execCpy (o : XOp) (s : State) : Out := s.copyIssue .cpy o
/-- CPYQ (R246). -/
def execCpyq (o : XOp) (s : State) : Out := s.copyIssue .cpyq o
/-- CPYO (R246). -/
def execCpyo (o : XOp) (s : State) : Out := s.copyIssue .cpyo o
/-- CPYR (R381, R382). -/
def execCpyr (o : XOp) (s : State) : Out := s.copyIssue .cpyr o
/-- The traps of COLL at issue (R383). -/
def State.collBad (s : State) (i : Issue) (o : XOp) : Option TrapInfo :=
  if i.act o.p = 0#64 then none
  else
    let w := s.descr i o.dbase 5
    let n := cw w 4 0 11
    if i.pre.inTrap || decide (i.pre.ns < o.dbase.toNat + 5) || cw w 2 38 10 != 0 || decide (3 ≤ cw w 2 35 3) || cw w 2 0 32 == 0 ||
        cw w 4 26 38 != 0 || cw w 4 11 5 != 0 || decide (n < 2) || decide (1024 < n) || decide (n ≤ cw w 4 16 10) then some (i.fault .illop 3)
    else if cw w 0 0 8 ≠ 0 then some { i.fault .misalign 3 with addr := cw w 0 0 64 }
    else if cw w 1 0 8 ≠ 0 then some { i.fault .misalign 3 with addr := cw w 1 0 64 }
    else none
/-- COLL (R383). -/
def execColl (o : XOp) (s : State) : Out :=
  s.slotOp (fun i => s.collBad i o) (fun i =>
    if i.act o.p = 0#64 then s.xEmpty i o else s.copyPush i .coll o (s.descr i o.dbase 5))

/-! ### Running -/

def State.copy? (s : State) (cluster id : Nat) : Option CopyCmd := (s.cluster cluster).copies.find? (fun c => c.id == id)
def State.updCopy (s : State) (cluster id : Nat) (f : CopyCmd → CopyCmd) : State :=
  s.updCluster cluster (fun cl => { cl with copies := cl.copies.map (fun c : CopyCmd => if c.id = id then f c else c) })
def CopyKind.op : CopyKind → Nat | .cpy => 0 | .cpyq => 1 | .cpyo => 2 | .cpyr => 3 | .coll => 4
/-- A command leaves the queue and its tag sets. -/
def State.copyLeave (s : State) (cluster : Nat) (c : CopyCmd) (err : Bool) : State :=
  (s.updCluster cluster (fun cl => { cl with copies := cl.copies.filter (fun x => x.id != c.id) })).setTag c.core c.ptag err
/-- A command ends with an error: its fault record performs, then its tag sets with TAGERR (R233, R237). The field of the copy unit is 0 where
no unit holds it (DESIGN CHOICE, assumption 94). -/
def State.copyFail (s : State) (cluster : Nat) (c : CopyCmd) (e : EngErr) : State :=
  let w0 := 2 ^ 63 + 2 ^ 20 * c.kind.op + 2 ^ 17 * (c.unit.getD 0) + 2 ^ 11 * c.ptag + 2 ^ 8 * e.kind + e.cause
  let addr := if 3 ≤ e.cause then 0 else e.addr
  (s.writeRecord c.core c.grid (32 * c.ptag) [BitVec.ofNat 64 w0, BitVec.ofNat 64 addr, BitVec.ofNat 64 (c.done - c.buf.length), 0#64]).copyLeave cluster c true

/-- A running copy meets an error: it ends now, under DET at its padded ic (R242, R243, R386). -/
def State.copyErr (s : State) (cluster : Nat) (c : CopyCmd) (e : EngErr) : State :=
  if s.isDet c.core && c.started && c.rem != 0 then
    s.updCopy cluster c.id (fun x : CopyCmd => { x with fail := x.fail <|> some (e.cause, e.kind, e.addr) })
  else s.copyFail cluster c e
/-- The error a copy has met before its padded ic. -/
def CopyCmd.failed (c : CopyCmd) : Option EngErr := c.fail.map (fun f => ⟨f.1, f.2.1, f.2.2⟩)

/-- The engine's view of a side. -/
def cpSide (w : List W64) (core code rot : Nat) : EngSp :=
  match code with | 0 => .sp core rot | 5 => .sp (cpCore w core 5) rot | 3 => .h | 4 => .l | _ => .g
/-- An element converted on its way (R240). -/
def cpConv (w : List W64) (x : Nat) : Nat :=
  match FFmt.of (cw w 2 16 8), FFmt.of (cw w 2 24 8) with
  | some a, some b => if cw w 2 16 8 = 0 then x else (encFmt b .rn (cw w 2 39 1 == 1) 0 (decFmt a x)).1
  | _, _ => x
/-- Read the element of a point at its source; `since` is where this event's requests of a CPYR begin, whose remote side alone may reach
remote memory (R381, R382). -/
def State.cpRead (s : State) (c : CopyCmd) (p : Part) (since n : Nat) : Except EngErr Nat × State :=
  s.engRead c.core p (cpSide c.words c.core (cw c.words 2 0 3) (cw c.words 2 8 4)) (cpSrc c.words (cpPoint c.words n) % 2 ^ 64).toNat
    (cpSrcSize c.words) (if c.far = 1 then some since else none)
/-- Write the element of a point at its destination. -/
def State.cpWrite (s : State) (c : CopyCmd) (p : Part) (since n x : Nat) : Except EngErr Unit × State :=
  s.engWrite c.core p (cpSide c.words c.core (cw c.words 2 4 3) (cw c.words 2 12 4)) (cpDst c.words (cpPoint c.words n) % 2 ^ 64).toNat
    (cpDstSize c.words) x (if c.far = 2 then some since else none)
/-- Move n points from point d on (R240); the points moved, and the error met. A CPYR's requests carry up to 256 bytes (R382). Assumption 31. -/
def State.cpRun (c : CopyCmd) (p : Part) (since : Nat) : Nat → State → Nat → Nat × Option EngErr × State
  | 0, s, d => (d, none, s)
  | k + 1, s, d =>
    match s.cpRead c p since d with
    | (.error e, s) => (d, some e, s)
    | (.ok x, s) =>
      match s.cpWrite c p since d (cpConv c.words x) with
      | (.error e, s) => (d, some e, s)
      | (.ok _, s) => State.cpRun c p since k s (d + 1)

/-- The 32-bit word of the destination a point writes. -/
def cpWord (c : CopyCmd) (n : Nat) : Int := cpDst c.words (cpPoint c.words n) / 4
/-- No word is written by a point below d and by one from d on: another agent may look here and sees every word old or new (R240). -/
def cpCut (c : CopyCmd) (d : Nat) : Bool :=
  let total := cpTotal c.words
  decide (4 ≤ cpDstSize c.words) || (List.range d).all (fun i => (List.range (total - d)).all (fun j => decide (cpWord c i ≠ cpWord c (d + j))))
/-- The base 2 logarithm of a number of ranks, rounded up. -/
def clog2 (n : Nat) : Nat := ((List.range 12).find? (fun k => decide (n ≤ 2 ^ k))).getD 12
/-- Padded figure of a copy under DET (R243, R382, R383). -/
def State.copyPad (s : State) (c : CopyCmd) : Nat :=
  let far := fun k => decide (1 ≤ k) && decide (k ≤ 4)
  let b := if far (cw c.words 2 0 3) || far (cw c.words 2 4 3) then 1200 else 64
  let n := (cpTotal c.words * cpDstSize c.words + 255) / 256
  let r := s.ratio c.core
  match c.kind with
  | .cpy => r.scale (b + 8 * n)
  | .cpyq => r.scale (b + 8)
  | .cpyo => 0
  | .cpyr => r.scale (24000 + 8 * n)
  | .coll =>
    let ranks := cw c.words 4 0 11
    let words := cw c.words 2 0 32 * (if cw c.words 2 35 3 = 1 then ranks else 1)
    r.scale (24000 * clog2 ranks + 8 * ((words * 4 + 255) / 256))
/-- A unit that serves: working and not holding another command (R239, R259). -/
def Cluster.freeUnit (cl : Cluster) : Option Nat :=
  ((List.range 2).find? (fun u => !(cl.unitStop.getD u true) && !(cl.copies.any (fun c => c.unit == some u))))
def Cluster.allStopped (cl : Cluster) : Bool := cl.unitStop.all (fun b => b)
/-- A CPYR with writes for other packages waits for the markers its wave asked for before it (R377). Assumption 70. -/
def State.cpyrHeld (s : State) (c : CopyCmd) : Bool :=
  c.kind == .cpyr && cw c.words 2 4 3 == 1 &&
  (s.core c.core).ops.any (fun d => d.uid == c.uid && decide (d.id < c.id) && !d.padded && (match d.kind with
    | .drain true _ => d.reqs.any (fun r => !r.done) | _ => false))
/-- A stream is not waiting on its queue: CPYQ finds a free place, CPYO a filled head; a closed queue ends it. -/
def State.streamReady (s : State) (c : CopyCmd) : Bool :=
  let q := fun (k : Nat) => NMap.get? (s.core c.core).queues ((c.words.getD k 0#64).toNat % 16)
  match c.kind with
  | .cpyq => (match q 1 with | some x => decide (x.ents.length < 8) | none => true)
  | .cpyo => c.closed || (match q 0 with | some x => (match x.ents with | e :: _ => e.filled | [] => false) | none => true)
  | _ => true
/-- A unit returns to a command it left, or that started under DET while both were taken (R239). -/
def State.copyReturn (s : State) (cluster : Nat) (c : CopyCmd) : State :=
  if c.kind == .coll || c.unit.isSome || !(s.streamReady c) then s
  else if (s.cluster cluster).allStopped then s.copyFail cluster c ⟨5, 0, 0⟩
  else match (s.cluster cluster).freeUnit with
    | none => s
    | some u =>
      { s with fresh := s.fresh + 1 }.updCopy cluster c.id (fun c : CopyCmd =>
        { c with unit := some u, rem := if s.isDet c.core then c.rem else Config.freeNat s.fresh })
/-- A running copy moves points, all of them at its padded ic, a free number of them outside DET that leaves no word half written, and
completes with the last (R240, R243). Assumption 31. -/
def execCopyCompletion (cluster id : Nat) (s : State) : Out :=
  .next (match s.copy? cluster id with
    | none => s
    | some c =>
      if !c.started || c.rem != 0 || !(c.kind == .cpy || c.kind == .cpyr) then s
      else match c.failed, s.partOf c.core with
        | some e, _ => s.copyFail cluster c e
        | none, none => s.copyFail cluster c ⟨2, 0, 0⟩
        | none, some p =>
          let left := cpTotal c.words - c.done
          let least := Nat.min left (1 + Config.freeNat s.fresh)
          let n := if s.isDet c.core then left else (((List.range (left - least)).map (· + least)).find? (fun n => cpCut c (c.done + n))).getD left
          let r := State.cpRun c p s.pack.out.length n { s with fresh := s.fresh + 2 } c.done
          let c' := { c with done := r.1 }
          match r.2.1 with
          | some e => r.2.2.copyFail cluster c' e
          | none =>
            if cpTotal c.words ≤ r.1 then r.2.2.copyLeave cluster c' false
            else r.2.2.updCopy cluster id (fun _ => { c' with rem := Config.freeNat (s.fresh + 1), since := s.now }))

/-- Bytes of an entry as lanes (R245). -/
def entryOf (bs : List Byte) : VMap :=
  (List.range 64).foldl (fun m l => VMap.wr m l (BitVec.ofNat 32 (leNat ((bs.drop (4 * l)).take 4)))) []
def bytesOf (m : VMap) : List Byte := (List.range 64).flatMap (fun l => natLE 4 (VMap.rd m l).toNat)
/-- The bytes of points d to d + n - 1 at the source, converted. -/
def State.cpGather (c : CopyCmd) (p : Part) : Nat → State → Nat → Except EngErr (List Byte) × State
  | 0, s, _ => (.ok [], s)
  | k + 1, s, d =>
    match s.cpRead c p 0 d with
    | (.error e, s) => (.error e, s)
    | (.ok x, s) =>
      match State.cpGather c p k s (d + 1) with
      | (.ok r, s) => (.ok (natLE (cpDstSize c.words) (cpConv c.words x) ++ r), s)
      | (.error e, s) => (.error e, s)
/-- Points in one 256-byte entry of the queue side, and entries in all. -/
def cpPer (c : CopyCmd) : Nat := 256 / (if c.kind = .cpyq then cpDstSize c.words else cpSrcSize c.words)
def cpEntries (c : CopyCmd) : Nat := cpTotal c.words / cpPer c
/-- One more entry is done. Under DET the next one is due a step after this one was, outside it after a free count (R243). -/
def CopyCmd.turn (c : CopyCmd) (det : Bool) (step fr : Nat) : CopyCmd :=
  if det then { c with done := c.done + 1, rem := step - c.late, late := c.late - step }
  else { c with done := c.done + 1, rem := Config.freeNat fr }
/-- Entries that fall due in one issue cycle: one outside DET, under it as many as a queue holds (R243). -/
def State.copyTurns (s : State) (cluster id : Nat) (f : State → State) : State :=
  match s.copy? cluster id with
  | none => s
  | some c => if s.isDet c.core then (List.range 8).foldl (fun s _ => f s) s else f s
/-- CPYQ's next entry enters a free place of its queue; while there is none it holds no unit (R239). -/
def State.cpyqPush (s : State) (cluster id : Nat) : State :=
  match s.copy? cluster id with
  | none => s
  | some c =>
    let q := (c.words.getD 1 0#64).toNat % 16
    if !c.started || c.rem != 0 || c.kind != .cpyq then s
    else if c.fail.isSome then s.copyFail cluster c (c.failed.getD ⟨2, 0, 0⟩)
    else match s.partOf c.core, NMap.get? (s.core c.core).queues q with
      | some p, some x =>
        if 8 ≤ x.ents.length then s.updCopy cluster id (fun c : CopyCmd => { c with unit := none })
        else if c.unit.isNone && !(s.isDet c.core) then s
        else match State.cpGather c p (cpPer c) s (c.done * cpPer c) with
          | (.error e, s) => s.copyFail cluster c e
          | (.ok bs, s) =>
            let ent : QEnt := { slot := (x.head + x.ents.length) % 8, filled := true, data := entryOf bs }
            let s := s.updCore c.core (fun k => { k with queues := NMap.put k.queues q { x with ents := x.ents ++ [ent] } })
            let c' := c.turn (s.isDet c.core) ((s.ratio c.core).scale 8) s.fresh
            if cpEntries c ≤ c'.done then s.copyLeave cluster c' false
            else { s with fresh := s.fresh + 1 }.updCopy cluster id (fun _ => c')
      | _, _ => s.copyFail cluster c ⟨4, 0, 0⟩
/-- CPYQ pushes the entries that are due (R243, R246). -/
def execCpyqEntryPush (cluster id : Nat) (s : State) : Out := .next (s.copyTurns cluster id (fun s => s.cpyqPush cluster id))
/-- Write bytes over the points from d on. -/
def State.cpScatter (c : CopyCmd) (p : Part) : Nat → State → Nat → List Byte → Option EngErr × State
  | 0, s, _, _ => (none, s)
  | k + 1, s, d, bs =>
    match s.cpWrite c p 0 d (cpConv c.words (leNat (bs.take (cpSrcSize c.words)))) with
    | (.error e, s) => (some e, s)
    | (.ok _, s) => State.cpScatter c p k s (d + 1) (bs.drop (cpSrcSize c.words))
/-- The writes of entries taken, from entry d on: the entries written, and the error met. -/
def State.cpFlush (c : CopyCmd) (p : Part) : List (List Byte) → State → Nat → Nat × Option EngErr × State
  | [], s, d => (d, none, s)
  | b :: r, s, d =>
    match State.cpScatter c p (cpPer c) s (d * cpPer c) b with
    | (some e, s) => (d, some e, s)
    | (none, s) => State.cpFlush c p r s (d + 1)
/-- A command whose taken entries are written ends, without an error or with one. -/
def State.cpyoEnd (s : State) (cluster : Nat) (c : CopyCmd) (e : Option EngErr) : State :=
  match s.partOf c.core with
  | none => s.copyFail cluster c (e.getD ⟨2, 0, 0⟩)
  | some p =>
    let r := State.cpFlush c p c.buf s (c.done - c.buf.length)
    match r.2.1, e with
    | some er, _ => r.2.2.copyFail cluster { c with done := r.1, buf := [] } er
    | none, some er => r.2.2.copyFail cluster { c with buf := [] } er
    | none, none => r.2.2.copyLeave cluster c false
/-- CPYO takes its next entry from the queue head and writes its bytes, once they leave no word half written (R240); under DET it keeps
them until the figure after its last entry (R243, R246). While the head is missing it holds no unit (R239). Assumption 69. -/
def State.cpyoPop (s : State) (cluster id : Nat) : State :=
  match s.copy? cluster id with
  | none => s
  | some c =>
    let q := (c.words.getD 0 0#64).toNat % 16
    if !c.started || c.rem != 0 || c.kind != .cpyo then s
    else if c.closed then (match c.failed with | some e => s.copyFail cluster c e | none => s.cpyoEnd cluster c none)
    else match s.partOf c.core, NMap.get? (s.core c.core).queues q with
      | some p, some x =>
        match x.ents with
        | [] => s.updCopy cluster id (fun c : CopyCmd => { c with unit := none })
        | e :: _ =>
          if !e.filled then s.updCopy cluster id (fun c : CopyCmd => { c with unit := none })
          else if c.unit.isNone && !(s.isDet c.core) then s
          else
            let s := s.updCore c.core (fun k => k.popQ q)
            if s.isDet c.core then
              let c' := { c.turn true ((s.ratio c.core).scale 8) 0 with buf := c.buf ++ [bytesOf e.data] }
              let far := decide (1 ≤ cw c.words 2 4 3) && decide (cw c.words 2 4 3 ≤ 4)
              s.updCopy cluster id (fun _ =>
                if cpEntries c ≤ c'.done then { c' with closed := true, rem := (s.ratio c.core).scale ((if far then 1200 else 64) + 8), late := 0 } else c')
            else
              let c' := { c.turn false 0 s.fresh with buf := c.buf ++ [bytesOf e.data] }
              let s := { s with fresh := s.fresh + 1 }
              if cpEntries c ≤ c'.done then s.cpyoEnd cluster c' none
              else if !(cpCut c (c'.done * cpPer c)) then s.updCopy cluster id (fun _ => c')
              else
                let r := State.cpFlush c p c'.buf s (c'.done - c'.buf.length)
                match r.2.1 with
                | some er => r.2.2.copyFail cluster { c' with done := r.1, buf := [] } er
                | none => r.2.2.updCopy cluster id (fun _ => { c' with buf := [] })
      | _, _ => s.cpyoEnd cluster c (some ⟨4, 0, 0⟩)
/-- CPYO takes the entries that are due (R243, R246). -/
def execCpyoEntryPop (cluster id : Nat) (s : State) : Out := .next (s.copyTurns cluster id (fun s => s.cpyoPop cluster id))
/-- A command starts, and ends no earlier than its three beats (assumption 71): its tags are set, and outside DET a unit takes it; under
DET its padded count begins and a unit takes it if one is free. An empty copy sets its tag; an absent peer or two stopped units end it. A
stream that waited on its queue takes a unit again (R234, R239, R240, R242, R259). Under DET a CPYO may pop its first entry in this very
cycle (R243). -/
def execCopyStart (cluster id : Nat) (s : State) : Out :=
  .next (match s.copy? cluster id with
    | none => s
    | some c =>
      let cl := s.cluster cluster
      let det := s.isDet c.core
      if c.started then s.copyReturn cluster c
      else if !(s.tagsReady c.core c.waits) || s.cpyrHeld c then s
      else if cl.allStopped then s.copyFail cluster c ⟨5, 0, 0⟩
      else if c.kind != .coll && cpTotal c.words == 0 then s.copyLeave cluster c false
      else
        let peer := fun code => code == 5 && (match s.grid? c.grid with | some g => !(g.onCore (cpCore c.words c.core 5)) | none => true)
        if c.kind != .coll && (peer (cw c.words 2 0 3) || peer (cw c.words 2 4 3)) then s.copyFail cluster c ⟨3, 0, 0⟩
        else if !det && cl.freeUnit.isNone then s
        else
          let rem := if det then s.copyPad c else 3 + Config.freeNat s.fresh
          let unit := if c.kind == .coll then none else cl.freeUnit
          let s := { s with fresh := s.fresh + 1 }.updCopy cluster id (fun c : CopyCmd => { c with started := true, rem := rem, unit := unit, since := s.now })
          if det && c.kind == .cpyo then s.copyTurns cluster id (fun s => s.cpyoPop cluster id) else s)
/-- A remote copy or a collective that runs. -/
def CopyCmd.remote (c : CopyCmd) : Bool := c.started && (c.kind == .cpyr || c.kind == .coll)
/-- It has had no response for 1 ms (R386). -/
def CopyCmd.overdue (c : CopyCmd) (now : Nat) : Bool := c.remote && decide (c.since + responseTime ≤ now)
/-- An address an error of a copy may name: of a free point not complete, at its source or its destination, and never of the queue side. -/
def CopyCmd.someAddr (c : CopyCmd) (fr : Nat) : Nat :=
  let moved := if c.kind == CopyKind.cpyq || c.kind == CopyKind.cpyo then (c.done - c.buf.length) * cpPer c else c.done
  let pt := cpPoint c.words (moved + Config.freeNat fr % (cpTotal c.words - moved))
  ((if c.kind == CopyKind.cpyq || (c.kind != CopyKind.cpyo && Config.freeBool fr) then cpSrc c.words pt else cpDst c.words pt) % 2 ^ 64).toNat
/-- A copy ends with an error of the given cause (R237, R242, R246, R259, R386): a translation fault of a free kind of Table 7.4, an
uncorrectable error, both at a free address of the copy, or a cause that has neither; under DET at its padded ic (R243). Cause 6 comes to a
remote copy or a collective that has had no response for 1 ms, or whose packages cannot be reached. -/
def execCopyFault (cluster id cause : Nat) (s : State) : Out :=
  .next (match s.copy? cluster id with
    | none => s
    | some c => if cause = 6 ∧ !(c.overdue s.now || (c.remote && !s.linkUp)) then s else 
      let s := { s with fresh := s.fresh + 1 }
      (if cause = 2 then s.countUce cluster else s).copyErr cluster c ⟨cause, if cause = 1 then Config.freeNat (s.fresh - 1) % 4 else 0, c.someAddr (s.fresh - 1)⟩)

/-! ### Padding overruns (R185) -/

/-- An operation of a core stands at its padded ic. -/
def State.padDue (s : State) (core id : Nat) : Bool :=
  let cl := s.cluster (clusterOf core)
  (s.core core).ops.any (fun o => o.id == id && o.padded && o.rem == 0) ||
  cl.copies.any (fun c => c.id == id && c.core == core && c.started && c.rem == 0) ||
  cl.sides.any (fun c => c.id == id && c.core == core && c.started && c.rem == 0) ||
  cl.tasks.any (fun t => t.id == id && t.core == core && t.pad == some 0)
/-- Operations at their padded ic that still wait for their data. -/
def State.lateDue (s : State) (core : Nat) : List Nat := (s.core core).lates.filter (s.padDue core)
/-- A RECV of the core waits past its padded ic for its message (R380). -/
def Core.recvWaits (c : Core) : Bool := c.ops.any (fun o => o.rem == 0 && (match o.kind with | .recv _ _ _ _ _ _ _ none => true | _ => false))
/-- Words a source's receive queue holds: 64 KiB (R380). -/
def Peer.room (p : Peer) (n : Nat) : Bool := decide (p.rq.foldl (fun a m => a + m.2.2.length) 0 + n ≤ 16384)
def State.rqRoom (s : State) (q n : Nat) : Bool := (s.peer q).room n
/-- A SEND to the package's own ID stands at its padded ic and finds no room (R380). -/
def State.sendWaits (s : State) (core : Nat) (o : VarOp) : Bool :=
  o.padded && o.rem == 0 && (match o.kind, s.partOf core with | .send _ q _ n _ _ _, some p => n != 0 && q == p.acc && !(s.rqRoom q n) | _, _ => false)
/-- Something at its padded ic still waits for data, a message, room for one, or the other packages of a collective. -/
def State.dataLate (s : State) (core : Nat) : Bool :=
  !(s.lateDue core).isEmpty || (s.core core).recvWaits || (s.core core).ops.any (s.sendWaits core) ||
  (s.cluster (clusterOf core)).copies.any (fun c => c.core == core && c.started && c.rem == 0 && c.kind == .coll && c.got.isNone)
/-- Late data has arrived: the core's hold ends, if nothing else holds it too (R185). -/
def State.dataHere (s : State) (core : Nat) : State := if s.dataLate core then s else s.updCore core (fun c => { c with overrun := false })
/-- A padding overrun: the core is held and the partition's count rises, saturating (R185); a hold that lasts is the same one. -/
def State.holdOverrun (s : State) (core : Nat) : State :=
  if (s.core core).overrun then s
  else
    let s := s.updCore core (fun c => { c with overrun := true })
    match s.partOf core with
    | some p => s.updPart p.num (fun p => { p with overrun := if p.overrun.toNat < 0xFFFFFFFF then p.overrun + 1 else p.overrun })
    | none => s

/-! ### Collectives -/

/-- The output of a collective from the ranks' inputs, as 32-bit words (R383). -/
def collOut (kind : Nat) (op : SetOp) (e own : Nat) (srcs : List (List Nat)) : List (Nat × AFlags) :=
  match kind with
  | 0 => (List.range e).map (fun i => setTree op (srcs.map (fun x => x.getD i 0)))
  | 1 => srcs.flatMap (fun x => (x.take e).map (fun w => (w, 0#6)))
  | _ => (List.range e).map (fun i => setTree op (srcs.map (fun x => x.getD (own * e + i) 0)))
/-- n 32-bit words at a virtual address, as an engine reads them. -/
def State.engWords (s : State) (core : Nat) (p : Part) : Nat → Nat → Except EngErr (List Nat)
  | 0, _ => .ok []
  | n + 1, a =>
    match (s.engRead core p .g a 4 none).1 with
    | .error e => .error e
    | .ok x => match State.engWords s core p n (a + 4) with | .ok r => .ok (x :: r) | .error e => .error e
/-- Write 32-bit words at a virtual address. -/
def State.engPut (core : Nat) (p : Part) : List Nat → State → Nat → Nat → Nat × Option EngErr × State
  | [], s, _, d => (d, none, s)
  | x :: r, s, a, d =>
    match s.engWrite core p .g a 4 x none with
    | (.error e, s) => (d, some e, s)
    | (.ok _, s) => State.engPut core p r s (a + 4) (d + 1)
/-- The words of rank r's input in the bytes the other packages sent. -/
def wordsAt (data : List Byte) (ofs n : Nat) : List Nat :=
  (List.range n).map (fun j => leNat ((data.drop (4 * (ofs + j))).take 4))
/-- Every package has issued its matching COLL: `data` holds the inputs of the ranks in order, `agree` whether lists and
parameters agree. The own output performs and the tag sets, under DET not before its padded ic (R383, R384). With every station down nothing
of theirs comes (R386). -/
def execCollCompletion (cluster id : Nat) (agree : Bool) (data : List Byte) (s : State) : Out :=
  .next (match s.copy? cluster id with
    | none => s
    | some c =>
      if !c.started || c.kind != .coll then s
      else if s.isDet c.core && c.rem != 0 then s.updCopy cluster id (fun c : CopyCmd => { c with got := some (agree, data) })
      else (if c.fail.isSome then s.copyFail cluster c (c.failed.getD ⟨6, 0, 0⟩)
      else if c.got.isNone && !s.linkUp then s.copyFail cluster c ⟨6, 0, 0⟩
      else if !agree then s.copyFail cluster c ⟨7, 0, 0⟩
      else match s.partOf c.core with
        | none => s.copyFail cluster c ⟨2, 0, 0⟩
        | some p =>
          let w := c.words
          let e := cw w 2 0 32
          let kind := cw w 2 35 3
          let n := cw w 4 0 11
          let own := cw w 4 16 10
          let len := if kind = 2 then n * e else e
          let op := (SetOp.of (cw w 2 32 3)).getD .addF32
          match (s.engRead c.core p .g (cw w 3 0 64 + 2 * own) 2 none).1 with
          | .error er => s.copyFail cluster c er
          | .ok me =>
            if me % 1024 ≠ p.acc then s.copyFail cluster c ⟨7, 0, 0⟩
            else match s.engWords c.core p len (cw w 0 0 64) with
              | .error er => s.copyFail cluster c er
              | .ok mine =>
                let srcs := (List.range n).map (fun r => if r = own then mine else wordsAt data (r * len) len)
                let out := collOut kind op e own srcs
                let r := State.engPut c.core p (out.map (·.1)) s (cw w 1 0 64) 0
                match r.2.1 with
                | some er => r.2.2.copyFail cluster { c with done := r.1 } er
                | none =>
                  let fl := out.foldl (fun f x => f ||| x.2) 0#6
                  (r.2.2.updWave c.core c.wave (fun v => if v.uid = c.uid then { v with aflg := v.aflg ||| fl } else v)).copyLeave cluster c false).dataHere c.core)

/-- An uncorrectable error in a copy unit's data path: its command ends and the unit stops (R259). -/
def execCopyUnitError (cluster unit : Nat) (s : State) : Out :=
  let s := s.updCluster cluster (fun cl => { cl with unitStop := listSet cl.unitStop unit true,
                                                     health := { cl.health with uce := Nat.min 65535 (cl.health.uce + 1) } })
  .next (match (s.cluster cluster).copies.find? (fun c => c.unit == some unit) with
    | some c => s.copyFail cluster c ⟨5, 0, 0⟩
    | none => s)

end Sys2Proof.Machine
end

