-- ==== Sys2Proof/Machine/Matrix.lean ====
section
/-! DEFINITION. The matrix arrays: tile tasks, the affine scan and the side port (R202 to R231, R387). -/

namespace Sys2Proof.Machine

/-! ### Records and descriptors (Tables 9.2 to 9.5) -/

def rw (w : List W64) (k lo n : Nat) : Nat := bitsNat (w.getD k 0#64).toNat lo n
def tKind (w : List W64) : Nat := rw w 0 0 4
def tAcc (w : List W64) : Nat := rw w 0 4 3
def tKc (w : List W64) : Nat := rw w 0 7 4
def tAccop (w : List W64) : Nat := rw w 0 11 2
def tM (w : List W64) : Nat := rw w 0 16 8 + 1
def tN (w : List W64) : Nat := rw w 0 24 8 + 1
def tK (w : List W64) : Nat := rw w 0 32 16
def tInt (w : List W64) : Bool := rw w 0 48 4 == 1
/-- Commit units of a record: K-blocks or tiles (R222). -/
def tUnits (w : List W64) : Nat := if tKind w = 1 then (tK w + 31) / 32 else tK w

/-- An operand descriptor (Table 9.4). -/
structure Opd where
  src : Nat
  fmt : Nat
  tr : Bool
  blk : Bool
  rot : Nat
  base : Nat
  rp : Nat
  tp : Nat
  deriving DecidableEq, Repr

/-- Bytes of an element of a format code; every code of the binary8 ranges is a byte. -/
def elemSize (c : Nat) : Nat :=
  match FFmt.of c with | some (.ieee .f32) => 4 | some (.ieee _) => 2 | _ => 1
def isB8 (c : Nat) : Bool := decide (0x20 ≤ c) && decide (c < 0x60)
/-- A reserved binary8 code (R21). Assumption 42. -/
def rsvB8 (c : Nat) : Bool := isB8 c && (FFmt.of c).isNone
def isI8 (c : Nat) : Bool := match ITy.ofFmt c with | some .i8 => true | some .n8 => true | _ => false
def isIeee (c : Nat) : Bool := match FFmt.of c with | some (.ieee _) => true | _ => false
def isF32 (c : Nat) : Bool := match FFmt.of c with | some (.ieee .f32) => true | _ => false

/-- The descriptor at words k and k + 1; `cols` is the shape's column count at issue, the row pitch of a register
operand (R211). -/
def opdOf (w : List W64) (k cols : Nat) : Opd :=
  let src := rw w (k + 1) 16 3
  let fmt := rw w (k + 1) 4 8
  { src := src, fmt := fmt, tr := rw w (k + 1) 12 1 == 1, blk := rw w (k + 1) 14 1 == 1, rot := rw w (k + 1) 0 4,
    base := if src = 4 then rw w k 0 48 else if src = 3 then 0 else rw w k 0 32,
    rp := if src = 4 then rw w k 48 16 else if src = 3 then cols * elemSize fmt else rw w k 32 16,
    tp := if src = 4 then 256 * rw w (k + 1) 20 24 else if src = 3 then 0 else 64 * rw w k 48 16 }
/-- The address of element (i, j) of tile t, with the indices exchanged under transpose (R211). -/
def Opd.at (o : Opd) (t i j : Nat) : Nat :=
  let r := if o.tr then j else i
  let c := if o.tr then i else j
  o.base + t * o.tp + r * o.rp + c * elemSize o.fmt
/-- Whether a descriptor is well formed among the sources allowed (Table 9.4, R213). Assumption 43. -/
def opdForm (w : List W64) (k : Nat) (allowed : List Nat) : Bool :=
  let src := rw w (k + 1) 16 3
  allowed.contains src && rw w (k + 1) 44 20 == 0 && rw w (k + 1) 19 1 == 0 && rw w (k + 1) 13 1 == 0 && rw w (k + 1) 15 1 == 0 &&
  (src == 4 || rw w (k + 1) 20 24 == 0) && (src == 1 || src == 2 || rw w (k + 1) 0 4 == 0) &&
  (src != 3 || rw w k 8 56 == 0) && (src != 0 || ((w.getD k 0#64) == 0#64 && rw w (k + 1) 12 4 == 0))

/-- Rows, columns and tiles a descriptor covers: of A, B and the output in turn. -/
def opdBox (w : List W64) (which : Nat) : Nat × Nat × Nat :=
  match tKind w, which with
  | 1, 0 => (tM w, tK w, 1)
  | 1, _ => (tK w, tN w, 1)
  | 2, 2 => (tM w, tN w, 2 * tK w)
  | 2, _ => (tM w, tN w, tK w)
  | _, 0 => (1, tN w, 1)
  | _, _ => (tM w, tN w, 1)
/-- The end of a descriptor's elements. -/
def opdEnd (o : Opd) (b : Nat × Nat × Nat) : Nat := o.at (b.2.2 - 1) (b.1 - 1) (b.2.1 - 1) + elemSize o.fmt
/-- The descriptors a record uses, by number. -/
def usedOpds (w : List W64) (cols : Nat) : List (Nat × Opd) :=
  let a := (0, opdOf w 1 cols)
  let b := (1, opdOf w 3 cols)
  let o := (2, opdOf w 5 cols)
  ((match tKind w with
    | 1 => [a, b]
    | 2 => if rw w 0 14 1 = 1 then [a, b, o] else [a, b]
    | _ => [a, o]) : List (Nat × Opd)).filter (fun x => x.2.src != 0)

/-! ### Checks at issue (R213) -/

def fmtMMA (c : Nat) : Bool := isB8 c || isI8 c || isIeee c
/-- Format rules of an MMA; a reserved binary8 code goes with either accumulator format (R21). Assumption 42. -/
def mmaFmts (w : List W64) : Bool :=
  let a := rw w 2 4 8
  let b := rw w 4 4 8
  let fits := fun c => rsvB8 c || isI8 c == tInt w
  fmtMMA a && fmtMMA b && fits a && fits b && (rw w 2 14 1 == 0 || isB8 a) && (rw w 4 14 1 == 0 || isB8 b)
/-- A format of an affine input: an IEEE one, or a reserved binary8 code (R21, R213). Assumption 42. -/
def affFmt (c : Nat) : Bool := isIeee c || rsvB8 c
/-- Reserved and unused fields, ranges and formats of a record. Assumption 43. -/
def recForm (w : List W64) : Bool :=
  let k := tKind w
  let zero2 := fun n => w.getD n 0#64 == 0#64 && w.getD (n + 1) 0#64 == 0#64
  let outen := rw w 0 14 1 == 1
  rw w 0 13 1 == 0 && decide (rw w 0 48 4 ≤ 1) && decide (tM w ≤ 128) && decide (tN w ≤ 128) && rw w 7 32 32 == 0 &&
  decide (rw w 0 52 12 < tUnits w) && !(rw w 0 15 1 == 1 && rw w 0 52 12 != 0) &&
  (rw w 7 0 16 == 0 || (k == 1 && rw w 2 14 1 == 1)) && (rw w 7 16 16 == 0 || (k == 1 && rw w 4 14 1 == 1)) &&
  (match k with
    | 1 => opdForm w 1 [1, 2, 3] && opdForm w 3 [1, 2, 3] && zero2 5 && !outen && tKc w == 0 && rw w 0 15 1 == 0 && mmaFmts w
    | 2 => decide (1 ≤ tK w) && decide (tK w ≤ 4095) && tAccop w == 0 && !tInt w &&
        (if rw w 2 16 3 = 0 then tK w == 1 && opdForm w 1 [0] && opdForm w 3 [0] else opdForm w 1 [1, 2, 4] && opdForm w 3 [1, 2, 4]) &&
        affFmt (rw w 2 4 8) && affFmt (rw w 4 4 8) && rw w 2 14 1 == 0 && rw w 4 14 1 == 0 &&
        (if outen then opdForm w 5 [1, 2, 4] && isF32 (rw w 6 4 8) && rw w 6 14 1 == 0 else zero2 5)
    | 3 => tK w == 1 && tAccop w == 0 && !tInt w && rw w 0 15 1 == 0 && outen && opdForm w 1 [0, 1, 2, 3, 4] && affFmt (rw w 2 4 8) &&
        rw w 2 14 1 == 0 && (rw w 2 16 3 == 0 || tKc w == 0) && zero2 3 && opdForm w 5 [1, 2, 4] && isIeee (rw w 6 4 8) && rw w 6 14 1 == 0
    | _ => false)
/-- Mode conflicts of a record. -/
def recMode (w : List W64) (paired : Bool) : Bool :=
  let aff := tKind w != 1 || decide (2 ≤ tAccop w)
  if paired then tAcc w == 0 && decide (tKc w < 8) && (!aff || decide (tN w ≤ 64)) else !aff || tAcc w % 2 == 0
/-- The block-scale tables of a record, by their offsets and lengths: A's M rows of K/32 bytes, B's K/32 rows of N. -/
def scaleTables (w : List W64) : List (Nat × Nat) :=
  (if rw w 2 14 1 = 1 then [(8 * rw w 7 0 16, tM w * tUnits w)] else []) ++ (if rw w 4 14 1 = 1 then [(8 * rw w 7 16 16, tUnits w * tN w)] else [])
/-- The traps of an X-slot operation that names k descriptor scalars (R72, R189, R225). -/
def Issue.xForm (i : Issue) (o : XOp) (k : Nat) : Bool := !i.pre.inTrap && decide (o.dbase.toNat + k ≤ i.pre.ns)
def State.pairedAt (s : State) (core : Nat) : Bool := (s.cluster (clusterOf core)).paired
/-- The checks of R213 in order: ILLOP, SPRANGE, MISALIGN. The address of a trap is the base of the first operand or scale table at fault
(DESIGN CHOICE, assumption 43). -/
def State.mxqBad (s : State) (i : Issue) (o : XOp) : Option TrapInfo :=
  if i.act o.p = 0#64 then none
  else
    let w := s.descr i o.dbase 8
    let used := usedOpds w i.pre.cols
    let far := used.find? (fun x => (x.2.src == 1 || x.2.src == 2) && decide ((s.core i.core).size * 1024 < opdEnd x.2 (opdBox w x.1)))
    let mis := used.find? (fun x => x.2.src != 3 && (x.2.base % 4 != 0 || x.2.rp % 4 != 0 || x.2.tp % 4 != 0))
    let regs := used.any (fun x => x.2.src == 3 && decide (i.pre.nv < rw w (2 * x.1 + 1) 0 8 + (opdEnd x.2 (opdBox w x.1) + 255) / 256))
    if !(i.xForm o 8) || !(recForm w) || !(recMode w (s.pairedAt i.core)) || regs then some (i.fault .illop 3)
    else match far with
      | some x => some { i.fault .sprange 3 with addr := x.2.base }
      | none => match (scaleTables w).find? (fun x => decide ((s.core i.core).size * 1024 < x.1 + x.2)) with
        | some x => some { i.fault .sprange 3 with addr := x.1 }
        | none => match mis with
          | some x => some { i.fault .misalign 3 with addr := x.2.base }
          | none => none

/-! ### Arrays and their names (R204, R205) -/

/-- The lowest-numbered array no pair name holds. -/
def Cluster.freeArray (cl : Cluster) : Option Nat := (cl.arrays.keys).find? (fun a => !(cl.bind.any (fun e => e.2 == a)))
/-- The array an accumulator name of a core denotes now. -/
def Cluster.arrayOf (cl : Cluster) (core acc : Nat) : Option Nat :=
  if cl.paired then some (core % 8 / 2) else NMap.get? cl.bind (acc / 2)
/-- Bind a pair name at its first use. -/
def Cluster.bindPair (cl : Cluster) (acc : Nat) : Cluster :=
  if cl.paired || (NMap.get? cl.bind (acc / 2)).isSome then cl
  else match cl.freeArray with
    | some a => { cl with bind := NMap.put cl.bind (acc / 2) a }
    | none => cl
/-- Releases asked for take effect once no task of the pair is queued. -/
def Cluster.release (cl : Cluster) : Cluster :=
  let now := cl.rel.filter (fun p => !(cl.tasks.any (fun t => tAcc t.words / 2 == p)))
  { cl with bind := now.foldl (fun b p => NMap.del b p) cl.bind, rel := cl.rel.filter (fun p => !(now.contains p)) }
/-- The half an accumulator name denotes, and the register of a carry name. -/
def Cluster.halfOf (cl : Cluster) (core acc : Nat) : Nat := if cl.paired then core % 2 else acc % 2
def Cluster.carryOf (cl : Cluster) (core kc : Nat) : Nat := if cl.paired then 8 * (core % 2) + kc else kc

def MArray.rd (a : MArray) (half r c : Nat) : W32 := VMap.rd a.acc (16384 * half + 128 * r + c)
def MArray.wr (a : MArray) (half r c : Nat) (x : W32) : MArray :=
  { a with acc := VMap.wr a.acc (16384 * half + 128 * r + c) x, rows := NMap.put a.rows (256 * half + 2 * r + c / 64) true }
def MArray.rdC (a : MArray) (k c o : Nat) : W32 := VMap.rd a.carry (256 * k + 2 * c + o)
def MArray.wrC (a : MArray) (k c : Nat) (g o : W32) : MArray :=
  { a with carry := VMap.wr (VMap.wr a.carry (256 * k + 2 * c) g) (256 * k + 2 * c + 1) o, cw := NMap.put a.cw k true }
def Cluster.marr (cl : Cluster) (a : Nat) : MArray := (NMap.get? cl.arrays a).getD MArray.reset
def Cluster.setArr (cl : Cluster) (a : Nat) (m : MArray) : Cluster := { cl with arrays := NMap.put cl.arrays a m }
/-- Half, row and column of the gain or the offset of an element of an affine tile (Table 9.1). -/
def affAt (paired : Bool) (half : Nat) (off : Bool) (r c : Nat) : Nat × Nat × Nat :=
  if paired then (half, r, if off then 64 + c else c) else (if off then 1 else 0, r, c)
/-- Where a task's accumulator element lies (R217). -/
def accAt (paired : Bool) (half accop i j : Nat) : Nat × Nat × Nat :=
  match accop with | 2 => affAt paired half false i j | 3 => affAt paired half true i j | _ => (half, i, j)

/-! ### MXQ (R226) -/

/-- The registers of a register operand as they stand: keyed by 2 to the 20 times the descriptor, then register of the
block, then lane. Assumption 44. -/
def State.regBlock (s : State) (i : Issue) (w : List W64) : NMap W32 :=
  (usedOpds w i.pre.cols).foldl (fun m x =>
    if x.2.src = 3 then
      (List.range ((opdEnd x.2 (opdBox w x.1) + 255) / 256)).foldl (fun m k =>
        (List.range 64).foldl (fun m l =>
          NMap.put m (2 ^ 20 * x.1 + 64 * k + l) (rdV (s.core i.core) i.pre (i.pre.vkey (rw w (2 * x.1 + 1) 0 8 + k)) l)) m) m
    else m) []
/-- TAGF: PTAG, CT0, CT1 and CT2 as they stand in the slot, bits [37:11] there (R212, Table 9.5). Assumption 43. -/
def tagF (o : XOp) : Nat := 2 ^ 21 * o.ptag.toNat + 2 ^ 14 * (eCt o.ct).1 + 2 ^ 7 * (eCt o.ct).2.1 + (eCt o.ct).2.2
/-- The record as the queue holds it: the eight words with TAGF in the last (R226). -/
def recWords (w : List W64) (o : XOp) : List W64 := w.take 7 ++ [w.getD 7 0#64 ||| BitVec.ofNat 64 (2 ^ 32 * tagF o)]
/-- The produced and the consumed tags a record's TAGF names. -/
def recTags (w : List W64) : Nat × List Nat :=
  (rw w 7 53 6, ([46, 39, 32].filter (fun k => rw w 7 (k + 6) 1 == 1)).map (fun k => rw w 7 k 6))
/-- MXQ (R208, R226): one record enters the task queue. -/
def execMxq (o : XOp) (s : State) : Out :=
  s.slotOp (fun i => s.mxqBad i o) (fun i =>
    if i.act o.p = 0#64 then s.xEmpty i o
    else
      let w := s.descr i o.dbase 8
      let t : Task := { id := s.nextId, core := i.core, wave := i.wave, uid := i.pre.uid, grid := i.pre.grid, words := recWords w o,
                        ptag := o.ptag.toNat, ctags := CTags.list o.ct, waits := i.unmet o.ct, regs := s.regBlock i w, rbase := i.pre.rbase,
                        rowlog := i.pre.rowlog, arr := none, left := 0, unit := rw w 0 52 12, pad := none, done := false,
                        flags := 0#6, tile0 := [], carry0 := [] }
      ({ s with nextId := s.nextId + 1 }.updCluster (clusterOf i.core) (fun cl =>
        { cl.bindPair (tAcc w) with tasks := cl.tasks ++ [t] })).updCore i.core (fun c => c.tagClear (laneBit o.ptag.toNat)))

/-! ### Reading operands -/

def Task.cols (t : Task) : Nat := 64 / 2 ^ t.rowlog.toNat
/-- A word of a register operand: as it stood at issue, or as a later write of the wave left it (R226). Assumption 44. -/
def State.regWord (s : State) (t : Task) (which a : Nat) : Nat :=
  let old := ((NMap.get? t.regs (2 ^ 20 * which + a / 4)).getD 0#32).toNat
  let w := s.wave t.core t.wave
  if w.uid = t.uid ∧ Config.freeBool (s.pickBase t.core 0 + a / 4) then
    let n := rw t.words (2 * which + 1) 0 8 + a / 256
    (VMap.rd w.v (64 * ({ w with rbase := t.rbase } : Wave).phys n + a / 4 % 64)).toNat
  else old
/-- The bits of element (i, j) of tile ti of a task's operand. -/
def State.opdRead (s : State) (t : Task) (which : Nat) (o : Opd) (ti i j : Nat) : Except EngErr Nat × State :=
  let a := o.at ti i j
  let n := elemSize o.fmt
  match s.partOf t.core with
  | none => (.error ⟨2, 0, a⟩, s)
  | some p =>
    match o.src with
    | 1 => s.engRead t.core p (.sp t.core o.rot) a n none
    | 2 => s.engRead t.core p (.sp (t.core ^^^ 1) o.rot) a n none
    | 3 => (.ok (s.regWord t which a / 2 ^ (8 * (a % 4)) % 2 ^ (8 * n)), { s with fresh := s.fresh + 2 ^ 17 })
    | _ => s.engRead t.core p .g (a % 2 ^ 64) n none
/-- Read a list of elements in order. -/
def State.opdList (t : Task) (which : Nat) (o : Opd) (ti : Nat) : List (Nat × Nat) → State → Except EngErr (List Nat) × State
  | [], s => (.ok [], s)
  | x :: r, s =>
    match s.opdRead t which o ti x.1 x.2 with
    | (.error e, s) => (.error e, s)
    | (.ok v, s) =>
      match State.opdList t which o ti r s with
      | (.ok l, s) => (.ok (v :: l), s)
      | (.error e, s) => (.error e, s)
/-- Bytes of the issuing core's scratchpad from an offset. -/
def State.scaleBytes (t : Task) : List Nat → State → Except EngErr (List Nat) × State
  | [], s => (.ok [], s)
  | a :: r, s =>
    match s.partOf t.core with
    | none => (.error ⟨2, 0, a⟩, s)
    | some p =>
      match s.engRead t.core p (.sp t.core 0) a 1 none with
      | (.error e, s) => (.error e, s)
      | (.ok v, s) =>
        match State.scaleBytes t r s with
        | (.ok l, s) => (.ok (v :: l), s)
        | (.error e, s) => (.error e, s)
def grid2 (rows cols : List Nat) : List (Nat × Nat) := rows.flatMap (fun r => cols.map (fun c => (r, c)))
/-- Write a list of elements under the output descriptor, 0 to 2 to the 32 each, in the order of the list, which for a unit is row by row,
gain before offset, up to the first that cannot be written (R264; DESIGN CHOICE, assumption 107). -/
def State.opdWrite (t : Task) (o : Opd) : List (Nat × Nat × Nat × Nat) → State → Option EngErr × State
  | [], s => (none, s)
  | (ti, i, j, x) :: r, s =>
    let a := o.at ti i j
    match s.partOf t.core with
    | none => (some ⟨2, 0, a⟩, s)
    | some p =>
      let sp : EngSp := match o.src with | 1 => .sp t.core o.rot | 2 => .sp (t.core ^^^ 1) o.rot | _ => .g
      match s.engWrite t.core p sp (a % 2 ^ 64) (elemSize o.fmt) x none with
      | (.error e, s) => (some e, s)
      | (.ok _, s) => State.opdWrite t o r s

/-! ### Dot products (R34, R217) -/

/-- An element's value with its block scale (R21, R22). -/
def elemF (fmt x : Nat) (scale : Option Nat) : XV × AFlags :=
  match FFmt.of fmt, scale with
  | none, _ => (.nan false, flNV)
  | some _, some 0xFF => (.nan false, flNV)
  | some f, some e => ((decFmt f x).scale2 ((e : Int) - 127), 0#6)
  | some f, none => (decFmt f x, 0#6)
def elemI (fmt x : Nat) : Int × AFlags :=
  match ITy.ofFmt fmt with | some t => (t.dec x, 0#6) | none => (0, flNV)
/-- The exact sum of a K-block's products; a NaN among them or opposed infinities make it NaN with NV (R34). -/
def blockSum (l : List ((XV × AFlags) × (XV × AFlags))) : XV × AFlags :=
  match l with
  | [] => (XV.zero true, 0#6)
  | x :: r =>
    let prod := fun (y : (XV × AFlags) × (XV × AFlags)) => let p := fmulX y.1.1 y.2.1; (p.1, p.2 ||| y.1.2 ||| y.2.2)
    let res := r.foldl (fun (a : XV × AFlags) y =>
      let p := prod y
      let t := addX false a.1 p.1
      (t.1, a.2 ||| p.2 ||| flIf t.2 flNV)) (prod x)
    (res.1, res.2 ||| flIf res.1.isNan flNV)
/-- One accumulator element after a K-block. -/
def mmaElem (int : Bool) (fa fb : Nat) (a : Nat) (l : List ((Nat × Option Nat) × (Nat × Option Nat))) : Nat × AFlags :=
  if int then
    let r := l.foldl (fun (acc : Int × AFlags) x =>
      let u := elemI fa x.1.1
      let v := elemI fb x.2.1
      (acc.1 + u.1 * v.1, acc.2 ||| u.2 ||| v.2)) ((a : Int), 0#6)
    ((r.1 % 2 ^ 32).toNat, r.2)
  else
    let S := blockSum (l.map (fun x => (elemF fa x.1.1 x.1.2, elemF fb x.2.1 x.2.2)))
    let r := finish .f32 .rn false 0 (faddX false (decF .f32 a) S.1)
    (r.1, r.2 ||| S.2)

/-- What a unit of a task computes: words to write, carries, flags. -/
structure UnitRes where
  acc : List ((Nat × Nat × Nat) × Nat)
  carry : List (Nat × Nat × Nat)
  out : List (Nat × Nat × Nat × Nat)
  flags : AFlags
  deriving DecidableEq, Repr

def optScale (blk : Bool) (l : List Nat) (k : Nat) : Option Nat := if blk then some (l.getD k 0) else none
/-- K-block b of an MMA on the array's present contents. -/
def State.mmaUnit (t : Task) (cl : Cluster) (m : MArray) (b : Nat) (s : State) : Except EngErr UnitRes × State :=
  let w := t.words
  let A := opdOf w 1 t.cols
  let B := opdOf w 3 t.cols
  let nk := Nat.min 32 (tK w - 32 * b)
  let ks := (List.range nk).map (fun k => 32 * b + k)
  match State.opdList t 0 A 0 (grid2 (List.range (tM w)) ks) s with
  | (.error e, s) => (.error e, s)
  | (.ok av, s) =>
    match State.opdList t 1 B 0 (grid2 ks (List.range (tN w))) s with
    | (.error e, s) => (.error e, s)
    | (.ok bv, s) =>
      match State.scaleBytes t (if A.blk then (List.range (tM w)).map (fun i => 8 * rw w 7 0 16 + i * tUnits w + b) else []) s with
      | (.error e, s) => (.error e, s)
      | (.ok sa, s) =>
        match State.scaleBytes t (if B.blk then (List.range (tN w)).map (fun j => 8 * rw w 7 16 16 + b * tN w + j) else []) s with
        | (.error e, s) => (.error e, s)
        | (.ok sb, s) =>
          let half := cl.halfOf t.core (tAcc w)
          let init := if tInt w then 0 else 0x80000000
          let elems := (grid2 (List.range (tM w)) (List.range (tN w))).map (fun x =>
            let at' := accAt cl.paired half (tAccop w) x.1 x.2
            let a := if tAccop w = 1 ∧ b = 0 then init else (m.rd at'.1 at'.2.1 at'.2.2).toNat
            let l := (List.range nk).map (fun k =>
              ((av.getD (x.1 * nk + k) 0, optScale A.blk sa x.1), (bv.getD (k * tN w + x.2) 0, optScale B.blk sb x.2)))
            (at', mmaElem (tInt w) A.fmt B.fmt a l))
          (.ok { acc := elems.map (fun e => (e.1, e.2.1)), carry := [], out := [], flags := elems.foldl (fun f e => f ||| e.2.2) 0#6 }, s)

/-! ### The affine scan (R219, R220) -/

/-- Exact decoding into .f32 bits; a signalling NaN stays signalling, and an element under a reserved code is a NaN (R21). -/
def toF32 (fmt x : Nat) : Nat :=
  match FFmt.of fmt with
  | some (.ieee .f32) => x
  | some f => (match decFmt f x with | .nan true => 0x7FA00000 | v => (roundFmt .f32 .rn false 0 v).1)
  | none => 0x7FC00000
/-- One level of the scan over a column. -/
def scanLevel (l : Nat) (y : List ((Nat × Nat) × AFlags)) : List ((Nat × Nat) × AFlags) :=
  (List.range y.length).map (fun r =>
    let v := y.getD r ((0, 0), 0#6)
    if r.testBit l then
      let p := y.getD (r / 2 ^ (l + 1) * 2 ^ (l + 1) + 2 ^ l - 1) ((0, 0), 0#6)
      let c := compose v.1.1 v.1.2 p.1.1 p.1.2
      (c.1, v.2 ||| c.2)
    else v)
/-- A column's output from its inputs and its carry. -/
def scanColumn (inp : List (Nat × Nat)) (carry : Nat × Nat) : List ((Nat × Nat) × AFlags) :=
  ((List.range 7).foldl (fun y l => scanLevel l y) (inp.map (fun x => (x, 0#6)))).map (fun v =>
    let c := compose v.1.1 v.1.2 carry.1 carry.2
    (c.1, v.2 ||| c.2))
/-- Tile t of an AFFSCAN. -/
def State.scanUnit (t : Task) (cl : Cluster) (m : MArray) (ti : Nat) (s : State) : Except EngErr UnitRes × State :=
  let w := t.words
  let A := opdOf w 1 t.cols
  let B := opdOf w 3 t.cols
  let pts := grid2 (List.range (tM w)) (List.range (tN w))
  let half := cl.halfOf t.core (tAcc w)
  let old : MArray := { m with acc := t.tile0 }
  let own := fun (off : Bool) => pts.map (fun x => let a := affAt cl.paired half off x.1 x.2; (old.rd a.1 a.2.1 a.2.2).toNat)
  match (if A.src = 0 then (.ok (own false), s) else State.opdList t 0 A ti pts s) with
  | (.error e, s) => (.error e, s)
  | (.ok gs, s) =>
    match (if A.src = 0 then (.ok (own true), s) else State.opdList t 1 B ti pts s) with
    | (.error e, s) => (.error e, s)
    | (.ok os, s) =>
      let kc := cl.carryOf t.core (tKc w)
      let cv := fun (x fmt : Nat) => if A.src = 0 then x else toF32 fmt x
      let colsOut := (List.range (tN w)).map (fun c =>
        scanColumn ((List.range (tM w)).map (fun r => (cv (gs.getD (r * tN w + c) 0) A.fmt, cv (os.getD (r * tN w + c) 0) B.fmt)))
          ((m.rdC kc c 0).toNat, (m.rdC kc c 1).toNat))
      let res := fun (r c : Nat) => (colsOut.getD c []).getD r ((0, 0), 0#6)
      (.ok { acc := pts.flatMap (fun x => let v := (res x.1 x.2).1
               [(affAt cl.paired half false x.1 x.2, v.1), (affAt cl.paired half true x.1 x.2, v.2)]),
             carry := (List.range (tN w)).map (fun c => let v := (res (tM w - 1) c).1; (c, v.1, v.2)),
             out := if rw w 0 14 1 = 1 then pts.flatMap (fun x => let v := (res x.1 x.2).1
               [(2 * ti, x.1, x.2, v.1), (2 * ti + 1, x.1, x.2, v.2)]) else [],
             flags := colsOut.foldl (fun f c => c.foldl (fun f v => f ||| v.2) f) (flIf (A.src != 0 && (rsvB8 A.fmt || rsvB8 B.fmt)) flNV) }, s)
/-- AFFMAP (R387). -/
def State.mapUnit (t : Task) (cl : Cluster) (m : MArray) (s : State) : Except EngErr UnitRes × State :=
  let w := t.words
  let A := opdOf w 1 t.cols
  let O := opdOf w 5 t.cols
  let half := cl.halfOf t.core (tAcc w)
  let old : MArray := { m with acc := t.tile0, carry := t.carry0 }
  let kc := cl.carryOf t.core (tKc w)
  match (if A.src = 0 then (.ok ((List.range (tN w)).map (fun c => (old.rdC kc c 1).toNat)), s)
         else State.opdList t 0 A 0 ((List.range (tN w)).map (fun c => (0, c))) s) with
  | (.error e, s) => (.error e, s)
  | (.ok hs, s) =>
    let ft : FTy := match FFmt.of O.fmt with | some (.ieee x) => x | _ => .f32
    let elems := (grid2 (List.range (tM w)) (List.range (tN w))).map (fun x =>
      let ga := affAt cl.paired half false x.1 x.2
      let oa := affAt cl.paired half true x.1 x.2
      let h := if A.src = 0 then decF .f32 (hs.getD x.2 0) else (elemF A.fmt (hs.getD x.2 0) none).1
      (x, finish ft .rn false 0 (fmaX false (decF .f32 (old.rd ga.1 ga.2.1 ga.2.2).toNat) h (decF .f32 (old.rd oa.1 oa.2.1 oa.2.2).toNat))))
    (.ok { acc := [], carry := [], out := elems.map (fun e => (0, e.1.1, e.1.2, e.2.1)),
           flags := elems.foldl (fun f e => f ||| e.2.2) (flIf (A.src != 0 && rsvB8 A.fmt) flNV) }, s)

/-! ### Running tasks (R215, R216, R222, R223) -/

def State.task? (s : State) (cluster id : Nat) : Option Task := (s.cluster cluster).tasks.find? (fun t => t.id == id)
def State.updTask (s : State) (cluster id : Nat) (f : Task → Task) : State :=
  s.updCluster cluster (fun cl => { cl with tasks := cl.tasks.map (fun t : Task => if t.id = id then f t else t) })
/-- Where a task runs: its array, and 4 more for the odd core of a pair in paired mode, whose tasks take turns with the
even core's by windows (R204, R215). -/
def Task.seat (t : Task) : Nat := t.arr.getD 0
def Task.arrNo (t : Task) : Nat := t.seat % 4
/-- The array number a fault record names: the task's, or before it starts the one its accumulator name denotes (Table 9.9). -/
def Cluster.arrFor (cl : Cluster) (t : Task) : Nat :=
  match t.arr with | some _ => t.arrNo | none => (cl.arrayOf t.core (tAcc t.words)).getD 0
/-- Half lane cycles of one unit (Table 9.6). -/
def unitTime (w : List W64) : Nat :=
  match tKind w with
  | 1 =>
    let a := rw w 2 4 8
    let b := rw w 4 4 8
    if isF32 a || isF32 b then 512 else if elemSize a = 1 ∧ elemSize b = 1 then 64 else 128
  | 2 => 32
  | _ => 32
/-- The padded figure of a task (Table 9.6). -/
def State.taskPad (s : State) (t : Task) : Nat :=
  let w := t.words
  let n := tUnits w - t.unit
  let d := 24 + n * (unitTime w / 2)
  let g := (usedOpds w t.cols).any (fun x => x.2.src == 4)
  (s.ratio t.core).scale (2 * d + 128 + (if g then 1200 * (if tKind w = 2 then n else 1) else 0))
/-- The core whose window the current issue cycle lies in, by parity (R204). Assumption 35. -/
def Cluster.owner (cl : Cluster) : Nat := cl.winIc / 64 % 2
/-- The task that would start at a seat now; none of this cycle's bundles (R215, R216). -/
def State.startable (s : State) (cluster seat : Nat) : Option Task :=
  let cl := s.cluster cluster
  let mine := fun (t : Task) => decide (t.core % 8 / 2 = seat % 4) && decide (t.core % 2 = seat / 4)
  let first := fun (t : Task) => !(cl.tasks.any (fun u => u.core == t.core && decide (u.id < t.id)))
  let busy := fun (t : Task) => cl.tasks.any (fun u => u.arr == some seat && !u.done && u.id != t.id)
  cl.tasks.find? (fun t => t.arr.isNone && !(s.issuedNow t.id) && s.tagsReady t.core t.waits &&
    (if cl.det then first t && mine t
     else if cl.paired then first t && mine t && !(busy t) && cl.owner == t.core % 2
     else (match NMap.get? cl.bind (tAcc t.words / 2) with | some a => a == seat | none => cl.freeArray == some seat) && !(busy t)))
/-- CINIT sets the carry to the identity before tile 0 (R219). Assumption 45. -/
def cinit (t : Task) (cl : Cluster) (m : MArray) : MArray :=
  if tKind t.words = 2 ∧ rw t.words 0 15 1 = 1 ∧ t.unit = 0 then
    (List.range (tN t.words)).foldl (fun m c => m.wrC (cl.carryOf t.core (tKc t.words)) c 0x3F800000#32 0#32) m
  else m
/-- What a starting task does to its array: the carry's identity, and what it reads once (R219, R220, R387). Assumption 45. -/
def Cluster.openTask (cl : Cluster) (t : Task) (array : Nat) : Task × Cluster :=
  let m := cinit t cl (cl.marr (array % 4))
  ({ t with tile0 := m.acc, carry0 := m.carry }, cl.setArr (array % 4) m)
/-- A task starts: outside DET it opens on its array for its array time, under DET its padded count begins (R215, R216). -/
def execTaskStart (cluster array : Nat) (s : State) : Out :=
  .next (match s.startable cluster array with
    | none => s
    | some t =>
      if (s.cluster cluster).det then s.updTask cluster t.id (fun t => { t with arr := some array, pad := some (s.taskPad t) })
      else
        let cl := (s.cluster cluster).bindPair (tAcc t.words)
        let r := cl.openTask t array
        (s.setCluster cluster r.2).updTask cluster t.id (fun _ =>
          { r.1 with arr := some array, left := if tKind t.words = 3 then 80 else 48 + unitTime t.words }))
/-- A paired window ends and the array passes to the partner core: the count of window cycles wraps at two windows (R204). -/
def execPairedWindowBoundary (cluster : Nat) (s : State) : Out :=
  .next (s.updCluster cluster (fun cl => if cl.paired && cl.winIc % 64 == 0 then { cl with winIc := cl.winIc % 128 } else cl))

/-- One unit of a task runs and commits as one step, or meets an error (R222). -/
def State.taskUnit (s : State) (cluster : Nat) (t : Task) : Option EngErr × Task × State :=
  let cl := s.cluster cluster
  let a := t.arrNo
  let absent := (usedOpds t.words t.cols).any (fun x => x.2.src == 2) &&
    (match s.grid? t.grid with | some g => !(g.onCore (t.core ^^^ 1)) | none => true)
  if absent then (some ⟨3, 0, 0⟩, t, s)
  else
    let r := match tKind t.words with
      | 1 => State.mmaUnit t cl (cl.marr a) t.unit s
      | 2 => State.scanUnit t cl (cl.marr a) t.unit s
      | _ => State.mapUnit t cl (cl.marr a) s
    match r with
    | (.error e, s) => (some e, t, s)
    | (.ok u, s) =>
      match State.opdWrite t (opdOf t.words 5 t.cols) u.out s with
      | (some e, s) => (some e, { t with flags := t.flags ||| u.flags }, s)
      | (none, s) =>
        let kc := cl.carryOf t.core (tKc t.words)
        let s := s.updCluster cluster (fun cl =>
          let m := u.acc.foldl (fun m e => m.wr e.1.1 e.1.2.1 e.1.2.2 (BitVec.ofNat 32 e.2)) (cl.marr a)
          cl.setArr a (u.carry.foldl (fun m e => m.wrC kc e.1 (BitVec.ofNat 32 e.2.1) (BitVec.ofNat 32 e.2.2)) m))
        (none, { t with unit := t.unit + 1, flags := t.flags ||| u.flags }, s)
/-- A task leaves the queue: its flags are collected, its tag sets, releases waiting on it happen (R205, R214, R218). -/
def State.taskLeave (s : State) (cluster : Nat) (t : Task) (err : Bool) : State :=
  let s := s.updWave t.core t.wave (fun w => if w.uid = t.uid then { w with aflg := w.aflg ||| t.flags } else w)
  (s.updCluster cluster (fun cl => ({ cl with tasks := cl.tasks.filter (fun x => x.id != t.id) }).release)).setTag t.core t.ptag err
/-- A task ends with an error: its fault record (Table 9.9) performs, then its tag sets with TAGERR (R223, R237). Assumption 36. -/
def State.taskFail (s : State) (cluster : Nat) (t : Task) (e : EngErr) : State :=
  let w0 := 2 ^ 20 * (t.unit % 4096) + 2 ^ 17 * (s.cluster cluster).arrFor t + 2 ^ 11 * t.ptag + 2 ^ 8 * e.kind + e.cause
  (s.writeRecord t.core t.grid (32 * t.ptag) [BitVec.ofNat 64 w0, BitVec.ofNat 64 (if 3 ≤ e.cause then 0 else e.addr), 0#64, 0#64]).taskLeave cluster t true

/-- The running task of an array outside DET. -/
def Cluster.running (cl : Cluster) (array : Nat) : Option Task := cl.tasks.find? (fun t => t.arr == some array && !t.done)
/-- The running task of an array has the array time of its next unit behind it: the unit commits, and after the last one
the task's writes take effect within free time (R222, R226). -/
def execTaskCommit (cluster array : Nat) (s : State) : Out :=
  .next (match (s.cluster cluster).running array with
    | none => s
    | some t =>
      if t.left ≠ 0 ∨ t.pad.isSome then s
      else match s.taskUnit cluster t with
        | (some e, t, s) => s.taskFail cluster t e
        | (none, t, s) =>
          if tUnits t.words ≤ t.unit then
            { s with fresh := s.fresh + 1 }.updTask cluster t.id (fun _ => { t with done := true, pad := some (Config.freeNat s.fresh) })
          else s.updTask cluster t.id (fun _ => { t with left := unitTime t.words }))
/-- Under DET all units of a task take effect at its padded completion (R216). -/
def State.taskAll (cluster : Nat) : Nat → Task → State → Option EngErr × Task × State
  | 0, t, s => (none, t, s)
  | n + 1, t, s =>
    match s.taskUnit cluster t with
    | (some e, t, s) => (some e, t, s)
    | (none, t, s) => State.taskAll cluster n t s
/-- A task whose count has run out: under DET its work takes effect now; its flags are collected and its tag sets (R216, R226). -/
def execTaskCompletion (cluster array : Nat) (s : State) : Out :=
  .next (match (s.cluster cluster).tasks.find? (fun t => t.arr == some array && t.pad == some 0) with
    | none => s
    | some t =>
      if t.done then s.taskLeave cluster t false
      else
        let r := (s.cluster cluster).openTask t array
        let n := tUnits t.words - t.unit
        match State.taskAll cluster (match t.fail with | some f => Nat.min f.1 n | none => n) r.1 (s.setCluster cluster r.2), t.fail with
        | (some e, t, s), _ => s.taskFail cluster t e
        | (none, t, s), some f => s.taskFail cluster t ⟨f.2.1, f.2.2.1, f.2.2.2⟩
        | (none, t, s), none => s.taskLeave cluster t false)
/-- Addresses of the accesses unit u of a task makes to operands, scales and output, of global memory alone for a translation fault (R211,
R217, R219, R223, R387). -/
def Task.reaches (t : Task) (u : Nat) (global : Bool) : List Nat :=
  let w := t.words
  let k := tKind w
  let ks := (List.range (Nat.min 32 (tK w - 32 * u))).map (fun j => 32 * u + j)
  let rows := List.range (tM w)
  let cols := List.range (tN w)
  let pts := fun (which : Nat) => match k, which with
    | 1, 0 => grid2 rows ks | 1, _ => grid2 ks cols | 3, 0 => grid2 [0] cols | _, _ => grid2 rows cols
  let scale := if global || k != 1 then []
    else (if rw w 2 14 1 = 1 then rows.map (fun i => 8 * rw w 7 0 16 + i * tUnits w + u) else []) ++
      (if rw w 4 14 1 = 1 then cols.map (fun j => 8 * rw w 7 16 16 + u * tN w + j) else [])
  ((usedOpds w t.cols).filter (fun x => x.2.src == 4 || (!global && x.2.src != 3))).flatMap (fun x =>
    let tiles := if k = 2 then (if x.1 = 2 then [2 * u, 2 * u + 1] else [u]) else [0]
    tiles.flatMap (fun ti => (pts x.1).map (fun y => x.2.at ti y.1 y.2))) ++ scale
/-- The running task of an array meets an error of the given cause (R223): outside DET in the unit that runs, under DET in a free one of its
units, whose outcome waits for the padded completion with the rest of the task's (R216). A translation fault is of a free kind of Table 7.4,
and it and an uncorrectable error name a free one of the unit's accesses; without an access of the kind there is no error, but for a
register operand, which has no address. -/
def execTaskFault (cluster array cause : Nat) (s : State) : Out :=
  .next (match (s.cluster cluster).running array with
    | none => s
    | some t =>
      let fr := s.fresh
      let det := (s.cluster cluster).det
      let n := if det then Config.freeNat fr % (tUnits t.words - t.unit) else 0
      let l := t.reaches (t.unit + n) (cause == 1)
      let addr := (l[Config.freeNat (fr + 1) % l.length]?).getD 0
      let kind := if cause = 1 then Config.freeNat (fr + 2) % 4 else 0
      let s := { s with fresh := fr + 3 }
      let s := if cause = 2 then s.countUce cluster else s
      if cause = 1 ∧ l.isEmpty = true then s
      else if det then s.updTask cluster t.id (fun t => { t with fail := t.fail <|> some (n, cause, kind, addr) })
      else s.taskFail cluster t ⟨cause, kind, addr⟩)

/-! ### The side port (R225 to R229) -/

/-- Registers a side-port operation moves. -/
def sideRegs (paired : Bool) (k : SideKind) (n : Nat) : Nat :=
  match k with | .rd => n | .wr => n | .z => 0 | _ => if paired then 2 else 4
/-- The checks of R227 to R229, and the names of R204. Assumption 41. -/
def sideForm (d : W64) (k : SideKind) (n nv : Nat) (paired : Bool) : Bool :=
  let x := d.toNat
  let acc := bitsNat x 16 3
  let h := 2 * bitsNat x 8 7 + bitsNat x 15 1
  let kcOk := !paired || decide (bitsNat x 8 4 < 8)
  (!paired || acc == 0) &&
  (match k with
    | .rd => bitsNat x 20 44 == 0 && decide (h + n ≤ 256) && decide (bitsNat x 0 8 + n ≤ nv) && !(paired && bitsNat x 19 1 == 1)
    | .wr => bitsNat x 19 45 == 0 && decide (h + n ≤ 256) && decide (bitsNat x 0 8 + n ≤ nv)
    | .z => bitsNat x 19 45 == 0 && bitsNat x 14 2 == 0 && bitsNat x 0 8 == 0 && (bitsNat x 13 1 == 0 || kcOk) &&
        (paired || bitsNat x 12 1 == 0 || acc % 2 == 0)
    | _ => bitsNat x 19 45 == 0 && bitsNat x 12 4 == 0 && kcOk && decide (bitsNat x 0 8 + sideRegs paired k n ≤ nv))
/-- Assumption 41. -/
def State.sideBad (s : State) (i : Issue) (o : XOp) (k : SideKind) (n : Nat) : Option TrapInfo :=
  if i.act o.p = 0#64 then none
  else if i.xForm o 1 && sideForm ((s.descr i o.dbase 1).getD 0 0#64) k n i.pre.nv (s.pairedAt i.core) then none
  else some (i.fault .illop 3)
/-- A side-port operation enters; MXWR and MXCWR read their registers, MXRD and MXCRD fix theirs (R227, R229). -/
def State.sideIssue (s : State) (o : XOp) (k : SideKind) (n : Nat) : Out :=
  s.slotOp (fun i => s.sideBad i o k n) (fun i =>
    if i.act o.p = 0#64 then s.xEmpty i o
    else
      let d := (s.descr i o.dbase 1).getD 0 0#64
      let m := sideRegs (s.pairedAt i.core) k n
      let regs := (List.range m).map (fun j => i.pre.vkey (bitsNat d.toNat 0 8 + j))
      let rdsRegs := k == SideKind.wr || k == SideKind.cwr
      let op : SideOp := { id := s.nextId, core := i.core, wave := i.wave, uid := i.pre.uid, grid := i.pre.grid, kind := k, desc := d,
                           n := n, regs := if rdsRegs then [] else regs,
                           data := if rdsRegs then regs.map (fun r => (List.range 64).map (fun l => rdV (s.core i.core) i.pre r l)) else [],
                           ptag := o.ptag.toNat, ctags := CTags.list o.ct, waits := i.unmet o.ct, started := false, rem := 0 }
      let s := if rdsRegs then s else s.updIssSplit i (fun sp => regs.foldl (fun sp r => sp.kill (.v r none) (BitVec.allOnes 64)) sp)
      ({ s with nextId := s.nextId + 1 }.updCluster (clusterOf i.core) (fun cl =>
        { cl.bindPair (bitsNat d.toNat 16 3) with sides := cl.sides ++ [op] })).updCore i.core (fun c => c.tagClear (laneBit o.ptag.toNat)))
/-- MXRD (R227). -/
def execMxrd (o : XOp) (n1 : BitVec 6) (s : State) : Out := s.sideIssue o .rd (n1.toNat + 1)
/-- MXWR (R227). -/
def execMxwr (o : XOp) (n1 : BitVec 6) (s : State) : Out := s.sideIssue o .wr (n1.toNat + 1)
/-- MXZ (R228). -/
def execMxz (o : XOp) (s : State) : Out := s.sideIssue o .z 0
/-- MXCRD (R229). -/
def execMxcrd (o : XOp) (s : State) : Out := s.sideIssue o .crd 0
/-- MXCWR (R229). -/
def execMxcwr (o : XOp) (s : State) : Out := s.sideIssue o .cwr 0

/-- Half-row h of a half as lanes, and its write. -/
def MArray.halfRow (m : MArray) (half h : Nat) : List W32 := (List.range 64).map (fun l => m.rd half (h / 2) (64 * (h % 2) + l))
def MArray.putHalfRow (m : MArray) (half h : Nat) (x : List W32) : MArray :=
  (List.range 64).foldl (fun m l => m.wr half (h / 2) (64 * (h % 2) + l) (x.getD l 0#32)) m
/-- Column and part of lane l of carry register j of R229. -/
def carryPart (paired : Bool) (j l : Nat) : Nat × Nat := if paired then (l, j) else (64 * (j % 2) + l, j / 2)
def sideRow (d : W64) : Nat := 2 * bitsNat d.toNat 8 7 + bitsNat d.toNat 15 1
/-- What an operation reads from its array. -/
def sideRead (cl : Cluster) (m : MArray) (o : SideOp) : List (List W32) :=
  let acc := bitsNat o.desc.toNat 16 3
  let kc := cl.carryOf o.core (bitsNat o.desc.toNat 8 4)
  match o.kind with
  | .rd => (List.range o.n).map (fun i => m.halfRow (cl.halfOf o.core acc) (sideRow o.desc + i))
  | .crd => (List.range (sideRegs cl.paired .crd 0)).map (fun j => (List.range 64).map (fun l =>
      let c := carryPart cl.paired j l; m.rdC kc c.1 c.2))
  | _ => o.data
/-- What an operation writes to its array (R227 to R229). -/
def sideWrite (cl : Cluster) (m : MArray) (o : SideOp) : MArray :=
  let x := o.desc.toNat
  let acc := bitsNat x 16 3
  let half := cl.halfOf o.core acc
  let kc := cl.carryOf o.core (bitsNat x 8 4)
  let cols := if cl.paired then 64 else 128
  match o.kind with
  | .wr => (List.range o.n).foldl (fun m i => m.putHalfRow half (sideRow o.desc + i) (o.data.getD i [])) m
  | .cwr => (List.range cols).foldl (fun m c =>
      let at' := fun (part : Nat) => if cl.paired then (o.data.getD part []).getD c 0#32 else (o.data.getD (2 * part + c / 64) []).getD (c % 64) 0#32
      m.wrC kc c (at' 0) (at' 1)) m
  | .z =>
    let idn := bitsNat x 12 1 == 1
    let one := if idn then 0x3F800000#32 else 0#32
    let m := if idn then (grid2 (List.range 128) (List.range cols)).foldl (fun m p =>
        let g := affAt cl.paired half false p.1 p.2
        let o := affAt cl.paired half true p.1 p.2
        (m.wr g.1 g.2.1 g.2.2 one).wr o.1 o.2.1 o.2.2 0#32) m
      else (grid2 (List.range 128) (List.range 128)).foldl (fun m p => m.wr half p.1 p.2 0#32) m
    if bitsNat x 13 1 = 1 then (List.range cols).foldl (fun m c => m.wrC kc c one 0#32) m else m
  | _ => m

def State.side? (s : State) (cluster id : Nat) : Option SideOp := (s.cluster cluster).sides.find? (fun o => o.id == id)
/-- An operation reads or writes the accumulator or carry. Outside DET it reads every word at one moment, where R230 lets each word be of
before or after any commit of an unordered task (DESIGN CHOICE, assumption 89). -/
def State.sideAct (s : State) (cluster : Nat) (o : SideOp) (array : Nat) : SideOp × State :=
  let cl := s.cluster cluster
  ({ o with data := sideRead cl (cl.marr array) o }, s.updCluster cluster (fun cl => cl.setArr array (sideWrite cl (cl.marr array) o)))
/-- The padded figure (Table 9.7). -/
def State.sidePad (s : State) (o : SideOp) : Nat :=
  (s.ratio o.core).scale (match o.kind with | .rd => 32 + 2 * o.n | .wr => 32 + 2 * o.n | .z => 96 | _ => 40)
/-- Beats on the X port (Table 9.7). -/
def SideOp.beats (o : SideOp) (paired : Bool) : Nat := match o.kind with | .rd => o.n | .wr => o.n | .z => 1 | _ => if paired then 2 else 4
/-- A side-port operation starts once its tags are set, and ends no earlier than its beats (assumption 71): it reads or writes now, or under DET when its count ends (R225, R227).
A pair name released before the operation starts is bound anew, to the lowest free array (DESIGN CHOICE, assumption 105). -/
def execSideportStart (cluster id : Nat) (s : State) : Out :=
  .next (match s.side? cluster id with
    | none => s
    | some o =>
      let acc := bitsNat o.desc.toNat 16 3
      let s' := s.updCluster cluster (fun cl => cl.bindPair acc)
      match (s'.cluster cluster).arrayOf o.core acc with
      | none => s
      | some a =>
        if o.started || !(s.tagsReady o.core o.waits) then s
        else
          let r := if (s.cluster cluster).det then ({ o with rem := s.sidePad o }, s')
            else let x := s'.sideAct cluster o a; ({ x.1 with rem := o.beats (s.cluster cluster).paired + Config.freeNat s.fresh }, { x.2 with fresh := s.fresh + 1 })
          r.2.updCluster cluster (fun cl => { cl with sides := cl.sides.map (fun x : SideOp => if x.id = id then { r.1 with started := true } else x) }))
/-- It completes: registers are written, a release is noted, the tag sets (R205, R227). -/
def execSideportCompletion (cluster id : Nat) (s : State) : Out :=
  .next (match s.side? cluster id with
    | none => s
    | some o =>
      if !o.started || o.rem != 0 then s
      else
        let acc := bitsNat o.desc.toNat 16 3
        let r := if (s.cluster cluster).det then s.sideAct cluster o (((s.cluster cluster).arrayOf o.core acc).getD 0) else (o, s)
        let o := r.1
        let s := r.2
        let live := (s.wave o.core o.wave).uid == o.uid
        let s := (List.range o.regs.length).foldl (fun s j =>
          if live then s.bank o.core o.wave (.v (o.regs.getD j 0) none) (BitVec.allOnes 64) o.id
            ((List.range 64).foldl (fun v l => RMap.wr v l (((o.data.getD j []).getD l 0#32).zeroExtend 64)) [])
          else s) s
        (s.updCluster cluster (fun cl =>
          ({ cl with sides := cl.sides.filter (fun x => x.id != id),
                     rel := if o.kind == SideKind.rd && bitsNat o.desc.toNat 19 1 == 1 && !cl.paired then acc / 2 :: cl.rel else cl.rel }).release)).setTag
          o.core o.ptag false)

end Sys2Proof.Machine
end

