-- ==== Sys2Proof/Machine/Loader.lean ====
section
/-! DEFINITION. Framon images and the loader (R334 to R339). -/

namespace Sys2Proof.Machine

/-- A section table entry (R335). -/
structure Sect where
  kind : Nat
  flags : Nat
  gen : Nat
  off : Nat
  size : Nat
  align : Nat
  deriving DecidableEq, Repr

/-- n little-endian bytes of an image from an offset. -/
def imgNat (b : List Byte) (off n : Nat) : Nat := leNat ((b.drop off).take n)
def imgSect (b : List Byte) (tab k : Nat) : Sect :=
  let o := tab + 32 * k
  { kind := imgNat b o 2, flags := imgNat b (o + 2) 2, gen := imgNat b (o + 4) 4, off := imgNat b (o + 8) 8,
    size := imgNat b (o + 16) 8, align := imgNat b (o + 28) 1 }
def imgSects (b : List Byte) : List Sect := (List.range (imgNat b 8 4)).map (imgSect b (imgNat b 0x10 8))
/-- Sections the loader places: loadable, of a known kind, native code of generation 1 alone (R335). -/
def Sect.placed (x : Sect) : Bool :=
  x.flags % 2 == 1 && decide (1 ≤ x.kind) && decide (x.kind ≤ 10) && (x.kind != 1 || x.gen == 1)
/-- Load addresses of the sections, in section order (R339). -/
def sectAddrs : Nat → List Sect → List (Option Nat)
  | _, [] => []
  | a, x :: r =>
    if x.placed then
      let q := (a + 2 ^ x.align - 1) / 2 ^ x.align * 2 ^ x.align
      some q :: sectAddrs (q + x.size) r
    else none :: sectAddrs a r

/-- Notes of an image: type, flags, data offset and length, each padded to 8 bytes (R338). -/
def imgNotes (b : List Byte) : Nat → Nat → List (Nat × Nat × Nat × Nat)
  | 0, _ => []
  | n + 1, o =>
    let len := imgNat b (o + 4) 4
    (imgNat b o 2, imgNat b (o + 2) 2, o + 8, len) :: imgNotes b n (o + 8 + (len + 7) / 8 * 8)

/-- First error of a list of checks: a code and the offset of the item. -/
def firstErr (l : List (Option (Nat × Nat))) : Option (Nat × Nat) := (l.filterMap (fun x => x)).head?
def errIf (c : Bool) (code off : Nat) : Option (Nat × Nat) := if c then some (code, off) else none

/-- Offsets of the kernel table entries, and of the relocations, in the file. -/
def kernOffs (ss : List Sect) : List Nat :=
  (ss.filter (fun x => x.kind == 9)).flatMap (fun x => (List.range (x.size / 192)).map (fun k => x.off + 192 * k))
def relOffs (ss : List Sect) : List Nat :=
  (ss.filter (fun x => x.kind == 8)).flatMap (fun x => (List.range (x.size / 24)).map (fun k => x.off + 24 * k))
/-- Load address of offset `off` in a section, if it is placed and holds `len` bytes there. -/
def secAddr (ss : List Sect) (as : List (Option Nat)) (k off len : Nat) : Option Nat :=
  match ss[k]?, as[k]? with
  | some x, some (some a) => if off + len ≤ x.size then some (a + off) else none
  | _, _ => none
/-- The entry of a kernel: native when a section of generation 1 holds it, else Beyrum (R336). -/
def kernEntry (b : List Byte) (ss : List Sect) (as : List (Option Nat)) (o : Nat) : Option (Nat × Bool) :=
  let nat := imgNat b (o + 4) 2
  let bey := imgNat b (o + 6) 2
  match (if (ss[nat]?.map (·.kind)) = some 1 then secAddr ss as nat (imgNat b (o + 8) 8) 32 else none) with
  | some a => some (a, false)
  | none => (if (ss[bey]?.map (·.kind)) = some 2 then secAddr ss as bey (imgNat b (o + 0x10) 8) 8 else none).map (·, true)

/-- The 64 KiB pages a section covers. -/
def pagesOf (a size : Nat) : List Nat :=
  if size = 0 then [] else (List.range ((a + size - 1) / 65536 - a / 65536 + 1)).map (fun j => 65536 * (a / 65536 + j))
/-- The checks of Table 15.8 in its order. A relocation of or against a section that is skipped is no error (R335, R336); one
whose base index lies outside the section table is LOADREL (DESIGN CHOICE, assumption 108). -/
def imgError (m : Mems) (p : Part) (csver : Nat) (b : List Byte) (as : List (Option Nat)) : Option (Nat × Nat) :=
  let size := imgNat b 0x20 8
  let tab := imgNat b 0x10 8
  let ss := imgSects b
  let notes := imgNotes b (imgNat b 0x0C 4) (imgNat b 0x18 8)
  let out := fun k off len => k != 0xFFFF && (match ss[k]? with | some x => decide (x.size < off + len) | none => true)
  firstErr (
    [errIf (imgNat b 0 4 != 0x4E4D5246) 1 0, errIf (imgNat b 4 2 != 1) 2 4,
     errIf (decide (size < tab + 32 * ss.length)) 3 0x10] ++
    (List.range ss.length).map (fun k => match ss[k]? with
      | some x => errIf (decide (size < x.off + x.size)) 3 (tab + 32 * k)
      | none => none) ++
    notes.map (fun n => errIf (decide (size < n.2.2.1 + n.2.2.2)) 3 (n.2.2.1 - 8)) ++
    (kernOffs ss).flatMap (fun o =>
      [errIf (out (imgNat b (o + 4) 2) (imgNat b (o + 8) 8) 32) 3 (o + 8), errIf (out (imgNat b (o + 6) 2) (imgNat b (o + 0x10) 8) 8) 3 (o + 0x10),
       errIf (out (imgNat b (o + 0x18) 2) (imgNat b (o + 0x20) 8) 64) 3 (o + 0x20),
       errIf (out (imgNat b (o + 0x1A) 2) (imgNat b (o + 0x28) 8) 32768) 3 (o + 0x28),
       errIf (out (imgNat b (o + 0x1C) 2) (imgNat b (o + 0x30) 8) 16) 3 (o + 0x30)]) ++
    notes.map (fun n => errIf (n.2.1 % 2 == 1 && !(decide (1 ≤ n.1) && decide (n.1 ≤ 3))) 4 (n.2.2.1 - 8)) ++
    notes.map (fun n => errIf (n.1 == 1 && decide (csver < imgNat b n.2.2.1 4)) 5 (n.2.2.1 - 8)) ++
    (kernOffs ss).map (fun o => errIf (kernEntry b ss as o).isNone 6 o) ++
    (relOffs ss).map (fun o =>
      let k := imgNat b (o + 8) 2
      let fits := match ss[imgNat b o 4]? with | some x => decide (imgNat b (o + 4) 4 + (if k = 1 then 8 else 4) ≤ x.size) | none => false
      errIf (!(decide (1 ≤ k) && decide (k ≤ 3)) || !fits || decide (ss.length ≤ imgNat b (o + 10) 2)) 7 o) ++
    (List.range ss.length).map (fun k => match ss[k]?, as[k]? with
      | some x, some (some a) =>
        errIf (!((pagesOf a x.size).all (fun v => match walkAll m p v with | .ok pa _ => !isRemote pa | _ => false))) 8 (tab + 32 * k)
      | _, _ => none))

/-- Replace bytes of a list from an offset. -/
def patchAt (b : List Byte) (off : Nat) (x : List Byte) : List Byte := b.take off ++ x ++ b.drop (off + x.length)
/-- Launch record templates filled in: word 3, BEYRUM, and words 7, 8 and 9 (R336, R337). -/
def fillKernel (ss : List Sect) (as : List (Option Nat)) (b : List Byte) (o : Nat) : List Byte :=
  let e := (kernEntry b ss as o).getD (0, false)
  let w0 := imgNat b (o + 0x40) 8
  let w0 := w0 - (if w0.testBit 14 then 2 ^ 14 else 0) + (if e.2 then 2 ^ 14 else 0)
  let adr := fun k off => natLE 8 ((secAddr ss as (imgNat b (o + k) 2) (imgNat b (o + off) 8) 0).getD 0)
  let b := patchAt b (o + 0x40) (natLE 8 w0)
  let b := patchAt b (o + 0x40 + 24) (natLE 8 e.1)
  let b := patchAt b (o + 0x40 + 56) (adr 0x1A 0x28)
  let b := patchAt b (o + 0x40 + 64) (adr 0x18 0x20)
  patchAt b (o + 0x40 + 72) (adr 0x1C 0x30)
/-- One relocation: the base section's load address plus the addend (R336); a base that is not placed counts as at 0 (assumption 39), and
a target that is not placed is written nowhere. -/
def relocate (ss : List Sect) (as : List (Option Nat)) (b : List Byte) (o : Nat) : List Byte :=
  let k := imgNat b (o + 8) 2
  let v := (secAddr ss as (imgNat b (o + 10) 2) 0 0).getD 0 + imgNat b (o + 16) 8
  match ss[imgNat b o 4]? with
  | some t => if !t.placed then b else patchAt b (t.off + imgNat b (o + 4) 4) (if k = 1 then natLE 8 v else if k = 2 then natLE 4 v else natLE 4 (v / 2 ^ 32))
  | none => b

/-- Address of the page table entry that maps an address (R291). Assumption 39. -/
def leafOf (m : Mems) (p : Part) (va : Nat) : Option Nat :=
  let ent := fun base lo bits => base + 8 * bitsNat va lo bits
  let nxt := fun e => (m.load e 8).map (fun x => (bitsNat x 1 1 == 1, bitsNat x 8 44 * 256))
  let e3 := ent (bitsNat p.ptroot.toNat 12 40 * 4096) 39 9
  (nxt e3).bind fun x3 => let e2 := ent x3.2 30 9
  (nxt e2).bind fun x2 => if x2.1 then some e2 else let e1 := ent x2.2 21 9
  (nxt e1).bind fun x1 => if x1.1 then some e1 else some (ent x1.2 16 5)
/-- A code page is mapped with X and without W (R339). Assumption 39. -/
def mapCode (m : Mems) (p : Part) (va : Nat) : Mems :=
  match leafOf m p va with
  | some e => match m.load e 8 with
    | some x => (m.store e 8 (x - (if x.testBit 3 then 8 else 0) + (if x.testBit 4 then 0 else 16))).getD m
    | none => m
  | none => m
/-- Bytes written where the walk leads, whatever the page's permissions. -/
def loadBytes (p : Part) : Nat → Mems → Nat → List Byte → Mems
  | 0, m, _, _ => m
  | n + 1, m, va, bs =>
    if bs.isEmpty then m
    else
      let k := 256 - va % 256
      let m := match walkAll m p va with
        | .ok pa _ => ((m.store pa (bs.take k).length (leNat (bs.take k))).map (fun m => m.noteWrite pa .cg)).getD m
        | _ => m
      loadBytes p n m (va + k) (bs.drop k)

/-- An image's sections, by address and size, take the place of the code that lay there: older sections they overwrite, and blocks
translated from them, are gone, a section that is covered in part as a whole (R339, R333; DESIGN CHOICE, assumption 109). -/
def Part.overlaid (p : Part) (l : List (Nat × Nat)) : Part :=
  let hit := fun a n => l.any (fun x => decide (x.1 < a + n) && decide (a < x.1 + x.2))
  { p with codes := p.codes.filter (fun c => !(hit c.base c.len)), transl := p.transl.filter (fun r => !(hit (8 * r.bpc) (8 * r.len))) }
/-- Writing IMGLOAD: the loader runs, answers in IMGSTAT, and on success places the image (R339). Assumption 18. An image that cannot be
read is LOADRANGE (DESIGN CHOICE, assumption 108). -/
def State.imgLoad (s : State) (part : Nat) (addr : Nat) : State :=
  match NMap.get? s.parts part with
  | none => s
  | some p =>
    let size := ((vaLoad s.mem p (addr + 0x20) 8)).getD 64
    let b := (vaBytes s.mem p (size / 128 + 8) addr (Nat.max size 64)).getD []
    let ss := imgSects b
    let as := sectAddrs p.imgdst.toNat ss
    let stat := fun e : Nat × Nat => BitVec.ofNat 64 (e.1 + 2 ^ 16 * e.2)
    let odd := fun (o n want code : Nat) => match vaBytes s.mem p 2 (addr + o) n with | some x => errIf (leNat x != want) code o | none => none
    if b.length < 64 then s.updPart part (fun p =>
      { p with imgload := BitVec.ofNat 64 addr, imgstat := stat ((firstErr [odd 0 4 0x4E4D5246 1, odd 4 2 1 2]).getD (3, 0)) })
    else match imgError s.mem p (s.pack.csver.toNat % 2 ^ 32) b as with
      | some e => s.updPart part (fun p => { p with imgload := BitVec.ofNat 64 addr, imgstat := stat e })
      | none =>
        let b := (relOffs ss).foldl (relocate ss as) ((kernOffs ss).foldl (fillKernel ss as) b)
        let put := fun (m : Mems) (k : Nat) => match ss[k]?, as[k]? with
          | some x, some (some a) =>
            let m := loadBytes p (x.size / 128 + 8) m a ((b.drop x.off).take x.size)
            if x.kind = 1 ∨ x.kind = 2 then (pagesOf a x.size).foldl (fun m v => mapCode m p v) m else m
          | _, _ => m
        let codes := (List.range ss.length).filterMap (fun k => match ss[k]?, as[k]? with
          | some x, some (some a) => if x.kind = 1 ∨ x.kind = 2 then some (CodeSec.mk a x.size (x.kind == 2)) else none
          | _, _ => none)
        let laid := (ss.zip as).filterMap (fun x => x.2.map (fun a => (a, x.1.size)))
        (s.updMem (fun m => (List.range ss.length).foldl put m)).updPart part (fun p =>
          let p := p.overlaid laid
          { p with imgload := BitVec.ofNat 64 addr, imgstat := 0#64, codes := p.codes ++ codes })

/-- A write to IMGLOAD (R339). -/
def execImgloadWrite (part : Nat) (v : W64) (s : State) : Out := .next (s.imgLoad part v.toNat)

end Sys2Proof.Machine
end

