-- ==== Sys2Proof/Machine/Regs.lean ====
section
/-! DEFINITION. Registers outside the waves: command registers (Table 15.1), staging and format range registers
(Tables 13.2 and 13.4), interrupts and range invalidation (R7, R8, R281, R286, R287, R294, R312, R371). -/

namespace Sys2Proof.Machine

/-- A grid of the partition is in flight on it. -/
def State.running (s : State) (part : Nat) : Bool := s.grids.any (fun g => g.part == part)
/-- A context of the partition keeps grids that a whole save took off it and that have still to end (R194, R329). -/
def Part.keepsGrids (p : Part) : Bool :=
  p.ctxs.any (fun x : Ctx => !x.hold && (match x.save with | some k => k.kind != 1 && !k.grids.isEmpty | none => false))
/-- A launch of the partition runs, for the locks of RWL and the held writes of RWD (R8): one that a saved context keeps has not ended, and
counts as running (DESIGN CHOICE, assumption 95). -/
def State.launched (s : State) (part : Nat) : Bool :=
  s.running part || (match NMap.get? s.parts part with | some p => p.keepsGrids | none => false)
/-- An event the package has under way, due after some ticks: it joins the inputs in time order. -/
def insertAt (t : Nat) (e : Instr) : List (Nat × Instr) → List (Nat × Instr)
  | [] => [(t, e)]
  | x :: r => if t < x.1 then (t, e) :: x :: r else x :: insertAt t e r
/-- Assumption 14. -/
def State.schedule (s : State) (dt : Nat) (e : Instr) : State := { s with inputs := insertAt (s.now + dt) e s.inputs }

/-- Interrupts raised: a pending one has no further effect (R371). -/
def State.raiseInts (s : State) (part : Nat) (bits : W64) : State :=
  match NMap.get? s.parts part with
  | none => s
  | some p =>
    let new := bits &&& ~~~ p.intPend
    (if s.pack.hinge then lanesOf new else []).foldl (fun s n => s.emit (.interrupt part n)) (s.updPart part (fun p => { p with intPend := p.intPend ||| bits }))

/-- Reading a command register (Table 15.1). -/
def State.cmdRead (s : State) (p : Part) (n : Nat) : W64 :=
  match n with
  | 0x100 => BitVec.ofNat 64 p.num
  | 0x101 => BitVec.ofNat 64 (p.run.getD 0 + 2 ^ 4 * (p.ctxs.length - 1))
  | 0x102 => p.lstat
  | 0x103 => p.trapvec
  | 0x104 => p.ctxbase
  | 0x105 => p.slice
  | 0x106 => p.epoch
  | 0x107 => p.overrun
  | 0x109 => p.inva
  | 0x10A => p.invlen ||| (if p.invBusy then laneBit 63 else 0#64)
  | 0x10B => p.quant
  | 0x10C => s.pack.csver
  | 0x10D => p.imgload ||| (if p.imgBusy then laneBit 63 else 0#64)
  | 0x10E => p.imgdst
  | 0x10F => p.imgstat
  | 0x110 => p.ptroot
  | 0x111 => p.tcache
  | _ => 0#64

/-- Fields of the RWD registers that are written (R8). -/
def rwdMask (n : Nat) : W64 :=
  match n with | 0x110 => 0x000FFFFFFFFFF001#64 | 0x111 => 0xFFFFFFFFFFFF0000#64 | _ => BitVec.allOnes 64
/-- A held RWD write takes effect. -/
def Part.setRwd (p : Part) (n : Nat) (v : W64) : Part :=
  let v := v &&& rwdMask n
  match n with
  | 0x105 => { p with slice := v }
  | 0x106 => { p with epoch := v }
  | 0x110 => { p with ptroot := v }
  | 0x111 => { p with tcache := v, transl := [] }
  | _ => p
/-- An RWD write: now, or when the partition's last grid ends (R8, R312). -/
def State.rwdWrite (s : State) (part n : Nat) (v : W64) : State :=
  if s.launched part then s.updPart part (fun p => { p with held := NMap.put p.held n v }) else s.updPart part (fun p => p.setRwd n v)
/-- Every held write takes effect. -/
def Part.applyHeld (p : Part) : Part := { p.held.foldl (fun p e => p.setRwd e.1 e.2) p with held := [] }
/-- Held writes take effect once the partition's last grid has ended (R8, R312). -/
def State.applyHeld (s : State) (part : Nat) : State := if s.launched part then s else s.updPart part (fun p => p.applyHeld)

/-- Writing a command register (Table 15.1). -/
def State.cmdWrite (s : State) (part n : Nat) (v : W64) : State :=
  match n with
  | 0x102 => s.updPart part (fun p => { p with lstat := p.lstat &&& ~~~ (v &&& 0x30000#64) })
  | 0x103 => s.updPart part (fun p => { p with trapvec := v &&& 0x0000FFFFFFFFFFFF#64 })
  | 0x104 => s.updPart part (fun p => { p with ctxbase := v &&& ~~~ 0xFFF#64 })
  | 0x105 => s.rwdWrite part n v
  | 0x106 => s.rwdWrite part n v
  | 0x107 => s.updPart part (fun p => { p with overrun := v &&& 0xFFFFFFFF#64 })
  | 0x108 => s.raiseInts part v
  | 0x109 => s.updPart part (fun p => { p with inva := v &&& 0x0000FFFFFFFF0000#64 })
  | 0x10A => { s.updPart part (fun p => { p with invlen := v &&& 0xFFFFFFFF#64, invBusy := true }) with fresh := s.fresh + 1 }.schedule
      (Config.freeNat s.fresh) (.invalidationCompletion part)
  | 0x10B =>
    let q := bitsNat v.toNat 0 17
    if 1024 ≤ q ∧ q ≤ 65536 then s.updPart part (fun p => { p with quant := BitVec.ofNat 64 q }) else s
  | 0x10D => s.imgLoad part (v &&& 0x7FFFFFFFFFFFFFFF#64).toNat
  | 0x10E => s.updPart part (fun p => { p with imgdst := v &&& ~~~ 0xFFFF#64 })
  | 0x110 => s.rwdWrite part n v
  | 0x111 => s.rwdWrite part n v
  | _ => s

/-- A register write by number (R7, R8, R312). -/
def execRegisterWrite (part num : Nat) (v : W64) (s : State) : Out := .next (s.cmdWrite part num v)
/-- PTROOT (R291). -/
def execPtrootWrite (part : Nat) (v : W64) (s : State) : Out := .next (s.rwdWrite part 0x110 v)
/-- INTRAISE (R371). -/
def execIntraiseWrite (part : Nat) (v : W64) (s : State) : Out := .next (s.raiseInts part v)
/-- The companion acknowledges an interrupt (R371). -/
def execInterruptAcknowledge (part n : Nat) (s : State) : Out :=
  .next (s.updPart part (fun p => { p with intPend := p.intPend &&& ~~~ (laneBit n) }))

/-! ### Range invalidation (R294) -/

/-- A write to INVLEN starts an invalidation. -/
def execRangeInvalidation (part : Nat) (v : W64) (s : State) : Out := .next (s.cmdWrite part 0x10A v)
def Part.invRange (p : Part) (va len : Nat) : Bool :=
  decide (va < p.inva.toNat + 65536 * p.invlen.toNat) && decide (p.inva.toNat < va + len)
def dropTlb (p : Part) (l : List TlbEnt) : List TlbEnt := l.filter (fun e => !(e.part == p.num && p.invRange e.vbase e.len))
/-- An operation that reads or writes its translated places until it completes: WAITA, SEND and RECV. -/
def VKind.keeps : VKind → Bool
  | .waita _ _ _ _ _ => true | .send _ _ _ _ _ _ _ => true | .recv _ _ _ _ _ _ _ _ => true | _ => false
/-- An operation has an access, sent under an old translation of the range, that has not performed. -/
def VarOp.old (p : Part) (o : VarOp) : Bool :=
  o.reqs.any (fun r => (!r.done || o.kind.keeps) && (match r.loc with | .pa _ => true | _ => false) && p.invRange (r.va / 65536 * 65536) 65536)
/-- Some access sent under an old translation of the range has not performed, on a core of the partition or in what its contexts keep. -/
def State.oldAccess (s : State) (p : Part) : Bool :=
  s.cores.any (fun e => (match s.partOf e.1 with | some q => q.num == p.num | none => false) && e.2.ops.any (VarOp.old p)) ||
  p.ctxs.any (fun x => match x.save with | some k => k.cores.any (fun e => e.2.ops.any (VarOp.old p)) | none => false)
/-- Walks of the range start again; the core's entries of the range are dropped. -/
def invWalk (p : Part) (w : Walk) : Walk := if p.invRange w.va 65536 then { w with rem := w.rem + 1 } else w
def invSplit (p : Part) (sp : Split) : Split := { sp with hold := sp.hold.map (fun h => { h with walks := h.walks.map (invWalk p) }) }
def invCore (p : Part) (c : Core) : Core :=
  { c with utlb := dropTlb p c.utlb,
           waves := c.waves.map (fun e => (e.1, { e.2 with splits := e.2.splits.map (fun x => (x.1, invSplit p x.2)) })) }
/-- The invalidation ends once the old accesses have performed: entries are dropped and walks of the range restart. -/
def execInvalidationCompletion (part : Nat) (s : State) : Out :=
  .next (match NMap.get? s.parts part with
    | none => s
    | some p =>
      if !p.invBusy then s
      else if s.oldAccess p then { s with fresh := s.fresh + 1 }.schedule (1 + Config.freeNat s.fresh) (.invalidationCompletion part)
      else
        { s with cores := s.cores.map (fun e : Nat × Core => (e.1, invCore p e.2)), clusters := s.clusters.map (fun e : Nat × Cluster => (e.1, { e.2 with tlb := dropTlb p e.2.tlb })) }.updPart
          part (fun p => { p with invBusy := false }))

/-! ### Staging and format range registers -/

/-- Write back and drop the lines in the ways of a slice below a bound, those that staging takes (R281). -/
def Mems.dropWays (m : Mems) (j below : Nat) : Mems :=
  (m.lines.filter (fun l => lineSlice l.num == j && decide (l.way < below))).foldl (fun m l => m.dropLine l.num) m
/-- SSTG: the management core sets a slice's staging; new bytes read zero (R281). -/
def execSstgWrite (j : Nat) (v : W64) (s : State) : Out :=
  .next (s.updMem (fun m =>
    let old := (NMap.get? m.sstg j).getD 0#64
    let new := v &&& 0x000FFFFFFFE00F03#64
    let lo := j * 2 ^ 21 + (if old &&& 0xF00#64 = new &&& 0xF00#64 then Nat.min (stageBytes old) (stageBytes new) else 0)
    let m := m.dropWays j (4 * bitsNat new.toNat 0 2)
    { m with sstg := NMap.put m.sstg j new, stg := m.stg.filter (fun e => !(decide (lo ≤ e.1) && decide (e.1 < (j + 1) * 2 ^ 21))) }))

/-- A range of storage lies in the partition's windows; windows that adjoin make one (R286, R325). -/
def Part.holds : Nat → Part → Nat → Nat → Bool
  | 0, _, lo, hi => decide (hi ≤ lo)
  | n + 1, p, lo, hi => decide (hi ≤ lo) || (match p.wins.find? (fun w => decide (w.1 ≤ lo) && decide (lo < w.1 + w.2)) with
      | some w => p.holds n (w.1 + w.2) hi
      | none => false)
def Part.owns (p : Part) (lo hi : Nat) : Bool := p.holds (p.wins.length + 1) lo hi
/-- Whether a format range is acceptable to a partition, enabled or not: its storage, and the scale region it names, lie in the stack
and in the partition's windows, and no other enabled range of the controller is met (R286). Assumption 67. -/
def Mems.frrOk (m : Mems) (p : Part) (k : Nat) (f : Frr) : Bool :=
  let lo := f.sbase
  let hi := f.sbase + f.len
  decide (lo / 2 ^ 36 = k / 16) && decide (hi ≤ (k / 16) * 2 ^ 36 + 48000000000) &&
  p.owns lo hi &&
  (!f.scen || (decide (f.scbase / 2 ^ 36 = k / 16) && p.owns f.scbase (f.scbase + f.len / 32))) &&
  !(m.frr.any (fun e => e.1 != k && e.1 / 16 == k / 16 && e.2.en && decide (e.2.sbase < hi) && decide (lo < e.2.sbase + e.2.len)))
/-- A sector holds carriers of a range. -/
def Frr.covers (f : Frr) (sec : Nat) : Bool :=
  isCarrier (sec * 256) && decide (f.sbase < storageOf (sec * 256) + 128) && decide (storageOf (sec * 256) < f.sbase + f.len)
/-- Write back and drop the carrier sectors of a range (R287). -/
def Mems.dropRange (m : Mems) (f : Frr) : Mems :=
  let m := (m.l2.filter (fun e => f.covers e.1)).foldl (fun m e => m.dropSec e.1) m
  { m with rdc := m.rdc.filter (fun e => !(f.covers e.1)) }
/-- A write to FRRA, FRRB or FRRC (`which` 0, 1, 2) of range k of the 128: RWL, where a locked write sets ERR in FRRA alone, the
register that has it (R8); a refused range or format sets ERR and clears EN (R286, R287). A format outside the 21 binary8 codes is
refused as R286 has it, code 0x00 too, which Table 1.1 calls legal in these registers: 0x00 stands there at reset alone (DESIGN CHOICE,
assumption 67). A register whose enabled range lies outside the partition's windows is not its to write. -/
def execFrrWrite (part which k : Nat) (v : W64) (s : State) : Out :=
  .next (match NMap.get? s.parts part with
    | none => s
    | some p =>
      let old := (NMap.get? s.mem.frr k).getD { a := 0#64, b := 0#64, c := 0#64 }
      if old.en && !(p.owns old.sbase (old.sbase + old.len)) then s
      else if s.launched part then
        if which = 0 then s.updMem (fun m => { m with frr := NMap.put m.frr k { old with a := old.a ||| 2#64 } }) else s
      else
        let a0 := old.a &&& ~~~ 2#64
        let new : Frr := match which with
          | 0 => { old with a := v &&& 0x000FFFFFFFFFFF01#64 }
          | 1 => { old with a := a0, b := v &&& 0x0000000FFFFFFFFF#64 }
          | _ => { old with a := a0, c := v &&& 0x000FFFFFFFFFFFF9#64 }
        let s := s.updMem (fun m => (m.dropRange old).dropRange new)
        let s := { s with cores := s.cores.map (fun e : Nat × Core => (e.1, { e.2 with l1 := e.2.l1.filter (fun x => !(old.covers x.1) && !(new.covers x.1)) })) }
        if s.mem.frrOk p k new && !((which == 1 || new.en) && (b8Of new.fmt).isNone) then s.updMem (fun m => { m with frr := NMap.put m.frr k new })
        else s.updMem (fun m => { m with frr := NMap.put m.frr k { old with a := (old.a &&& ~~~ 1#64) ||| 2#64 } }))

end Sys2Proof.Machine
end

