-- ==== Sys2Proof/Machine/Msg.lean ====
section
/-! DEFINITION. DRAIN, SEND and RECV, and the padding overruns and timeouts of a core (R185, R377 to R380, R386). -/

namespace Sys2Proof.Machine

/-! ### DRAIN (R378) -/

/-- A DRAIN's destination scalar has reserved bits set. -/
def State.drainBad (s : State) (i : Issue) (p : Pred) (dest : Option (BitVec 6)) (f : FSel) : Option TrapInfo :=
  match i.flagTrap f 2 with
  | some t => some t
  | none => if i.act p = 0#64 then none
    else match dest with
      | some n => if bitsNat (readS (s.core i.core) i.pre n.toNat).toNat 10 54 ≠ 0 then some (i.fault .illop 2) else none
      | none => none
/-- Writes the package has sent to another since a launch began. -/
def State.sentTo (s : State) (grid q : Nat) : Bool := decide ((s.netBase grid q).sent < (s.peer q).sentW)
/-- The packages a CPYR writes to (R382). -/
def State.cpyrPeers (s : State) (c : CopyCmd) : List Nat :=
  if c.far = 2 then (((s.cpPages c.core c.words (c.words.getD 1 0#64).toNat 9).filter isRemote).map peerOf).eraseDups else []
/-- CPYR commands of a wave, issued before an operation, that write to a package (R382). -/
def State.cpyrTo (s : State) (core uid id q : Nat) : Bool :=
  (s.cluster (clusterOf core)).copies.any (fun c => c.uid == uid && decide (c.id < id) && (s.cpyrPeers c).contains q)
/-- Packages to which writes of the M slot have still to leave. -/
def State.leaving (s : State) : List Nat := s.cores.flatMap (fun e => e.2.ops.flatMap VarOp.toPeers)
/-- The destinations a DRAIN names to which something was sent, or is about to leave (R378). Assumption 70. -/
def State.drainDests (s : State) (i : Issue) (dest : Option (BitVec 6)) : List Nat :=
  (match dest with
    | some n => [bitsNat (readS (s.core i.core) i.pre n.toNat).toNat 0 10]
    | none => (s.pack.peers.keys ++ s.leaving ++ (s.cluster (clusterOf i.core)).copies.flatMap s.cpyrPeers).eraseDups).filter (fun q =>
      s.sentTo i.pre.grid q || s.leaving.contains q || s.cpyrTo i.core i.pre.uid s.nextId q)
/-- A request that only holds a count; of a DRAIN.rel, one whose markers have still to leave. -/
def Req.mark : Req := { lane := 0, loc := .sp 0, va := 0, rem := 0, data := 0, data2 := 0, done := true, err := false, val := 0 }
def State.drainRun (s : State) (rel : Bool) (p : Pred) (dest : Option (BitVec 6)) (f : FSel) : Out :=
  s.slotOp (fun i => s.drainBad i p dest f) (fun i =>
    let ds := if i.act p = 0#64 then [] else s.drainDests i dest
    s.sendOp i (i.flagOf f) ((s.ratio i.core).scale 24000) (if i.act p = 0#64 then .empty else .drain rel ds)
      (if ds.isEmpty then [] else [{ Req.mark with done := !rel }]))
/-- DRAIN (R378). -/
def execDrain (p : Pred) (dest : Option (BitVec 6)) (f : FSel) (s : State) : Out := s.drainRun false p dest f
/-- DRAIN.rel (R377, R378). -/
def execDrainRel (p : Pred) (dest : Option (BitVec 6)) (f : FSel) (s : State) : Out := s.drainRun true p dest f
/-- A marker leaves for each destination, with the count of writes sent to it before (R377). -/
def State.sendMarks (s : State) (ds : List Nat) : State :=
  ds.foldl (fun s q => (s.updPeer q (fun x => { x with sentM := x.sentM + 1 })).emit (.marker q (s.peer q).sentW)) s
/-- A wave's earlier writes to some of the destinations have not all performed; `copies` counts its CPYR commands. -/
def State.writesTo (s : State) (core : Nat) (o : VarOp) (ds : List Nat) (copies : Bool) : Bool :=
  (s.core core).ops.any (fun x => x.uid == o.uid && decide (x.id < o.id) && x.toPeers.any (fun q => ds.contains q)) ||
  (copies && ds.any (fun q => s.cpyrTo core o.uid o.id q))
/-- A plain DRAIN completes when the wave's earlier writes are acknowledged. The markers of a DRAIN.rel leave after the wave's
earlier writes, and it completes when they are acknowledged; under DET both at its figure (R378). Assumption 70. -/
def execDrainCompletion (core id : Nat) (s : State) : Out :=
  .next (match s.op? core id with
    | none => s
    | some o =>
      match o.kind with
      | .drain rel ds =>
        if o.padded then (if o.rem ≠ 0 then s else (if rel then s.sendMarks ds else s).retireOp core o)
        else if rel && o.reqs.any (fun r => !r.done) then
          (if o.reqs.any (fun r => r.rem != 0) || s.writesTo core o ds false then s
          else { s.sendMarks ds with fresh := s.fresh + 1 }.updOp core id (fun o : VarOp =>
            { o with rem := 1 + Config.freeNat s.fresh, reqs := o.reqs.map (fun r : Req => { r with done := true }) }))
        else if o.rem ≠ 0 ∨ (!rel && s.writesTo core o ds true) then s
        else s.retireOp core o
      | _ => s)

/-! ### SEND and RECV (R379, R380) -/

def State.msgScalar (s : State) (i : Issue) (o : Msg) : Nat := (scalarData (s.core i.core) i.pre o.data).toNat
/-- Assumption 46. -/
def State.msgWords (s : State) (i : Issue) (o : Msg) : Nat := bitsNat (s.msgScalar i o) 32 11 + 1
/-- The buffer's address: an offset of the scratchpad by the affine scalar, or a virtual address. -/
def State.msgAddr (s : State) (i : Issue) (o : Msg) : Int :=
  let x := readS (s.core i.core) i.pre o.base.toNat
  if o.sp then (affBase x : Int) + o.ofs.toInt else ((x.toNat : Int) + o.ofs.toInt) % 2 ^ 64
/-- The pages of a global buffer, by the address of the first word in each, as they translate at issue (R160, R295). Assumption 32. -/
def State.msgPages (s : State) (i : Issue) (o : Msg) (acc : Access) : List (Nat × Xlat) :=
  match s.partOf i.core with
  | none => []
  | some p =>
    let a := (s.msgAddr i o).toNat
    (List.range (s.msgWords i o)).filterMap (fun k =>
      let va := (a + 4 * k) % 2 ^ 64
      if k = 0 ∨ va % 65536 = 0 then some (va, match tlbXlat (s.core i.core).utlb p va acc with
        | some e => Xlat.ok (e.at va) e
        | none => (s.engXlat i.core p va acc).1) else none)
/-- The first page of a global buffer that does not translate: its address and the kind of fault. -/
def State.msgXlat (s : State) (i : Issue) (o : Msg) (acc : Access) : Option (Nat × Nat) :=
  (s.msgPages i o acc).findSome? (fun x => match x.2 with | .fault f => some (x.1, f) | _ => none)
/-- What a message's operation keeps of its buffer in global memory: the place of each page (R294). -/
def State.msgReqs (s : State) (i : Issue) (o : Msg) (acc : Access) : List Req :=
  { Req.mark with since := s.now } :: (if o.sp then [] else (s.msgPages i o acc).map (fun x =>
    let at' := match x.2 with | .ok pa _ => some pa | _ => none
    { lane := 0, loc := .pa (at'.getD 0), va := x.1, rem := 0, data := 0, data2 := 0, done := true, err := at'.isNone, val := 0 }))
/-- The traps of SEND and RECV in the order of R187. Assumption 32. Assumption 46. -/
def State.msgBad (s : State) (i : Issue) (o : Msg) (acc : Access) : Option TrapInfo :=
  match i.flagTrap o.fsel 2 with
  | some t => some t
  | none =>
    if i.pre.inTrap then some (i.fault .illop 2)
    else if i.act o.p = 0#64 then none
    else
      let d := s.msgScalar i o
      let a := s.msgAddr i o
      let x := readS (s.core i.core) i.pre o.base.toNat
      if bitsNat d 10 6 ≠ 0 ∨ bitsNat d 22 10 ≠ 0 ∨ bitsNat d 43 21 ≠ 0 ∨ 1024 < s.msgWords i o then some (i.fault .illop 2)
      else if o.sp && (affRsv x != 0 || spOut (s.core i.core) a (4 * s.msgWords i o)) then
        some { i.fault .sprange 2 with addr := (a % 2 ^ 64).toNat }
      else if a % 4 ≠ 0 then some { i.fault .misalign 2 with addr := (a % 2 ^ 64).toNat }
      else if o.sp then none
      else (s.msgXlat i o acc).map (fun f => { i.fault .xlate 2 with addr := f.1, info := f.2 })
/-- A message of a channel, the oldest but for k, and the queue without it. -/
def takeMsg (ch : Nat) : Nat → List (Nat × Nat × List W32) → Option ((Nat × List W32) × List (Nat × Nat × List W32))
  | _, [] => none
  | k, m :: r =>
    if m.2.1 ≠ ch then (takeMsg ch k r).map (fun x => (x.1, m :: x.2))
    else match k with
      | 0 => some ((m.1, m.2.2), r)
      | k + 1 => (takeMsg ch k r).map (fun x => (x.1, m :: x.2))
/-- RECVs of a peer and channel that were issued before an operation and have still to take their messages: the oldest ones are theirs (R380). -/
def State.recvsBefore (s : State) (q ch id : Nat) : Nat :=
  (s.cores.flatMap (fun e => e.2.ops.filter (fun o => decide (o.id < id) && (match o.kind with
    | .recv _ p c n _ _ _ none => p == q && c == ch && n != 0
    | _ => false)))).length
/-- The message of a peer and channel that a RECV takes is in the queue. -/
def State.msgReady (s : State) (q ch id : Nat) : Bool := decide (s.recvsBefore q ch id < ((s.peer q).rq.filter (fun m => m.2.1 == ch)).length)
/-- The messages of a source that wait go into its queue in the order they came: one behind a marker waits on (R377), and once one finds no
room, it and those after it stay with their sender (R380). The model keeps them all in `held`. -/
def Peer.takeIn (p : Peer) (full : Bool) : List Held → Peer
  | [] => p
  | h :: r =>
    match h.msg with
    | some (ch, ws) =>
      if p.acked < h.epoch then { p with held := p.held ++ [h] }.takeIn full r
      else if full || !(p.room ws.length) then { p with held := p.held ++ [h] }.takeIn true r
      else
        let n := NMap.getD p.rseq 0 ch
        { p with rq := p.rq ++ [(n, ch, ws)], rseq := NMap.put p.rseq ch (n + 1), fence := p.fence + 1 }.takeIn full r
    | none => { p with held := p.held ++ [h] }.takeIn full r
def State.takeIn (s : State) (src : Nat) : State := s.updPeer src (fun p => { p with held := [] }.takeIn false p.held)
/-- Take the oldest message of a peer and channel that no earlier RECV waits for; the room it leaves is given on (R380). -/
def State.takeRq (s : State) (q ch id : Nat) : Option (Nat × List W32) × State :=
  match takeMsg ch (s.recvsBefore q ch id) (s.peer q).rq with
  | some x => (some x.1, (s.updPeer q (fun p => { p with rq := x.2 })).takeIn q)
  | none => (none, s)
/-- SEND (R379, R380). -/
def execSend (o : Msg) (s : State) : Out :=
  s.slotOp (fun i => s.msgBad i o .rd) (fun i =>
    let d := s.msgScalar i o
    let rot := if o.sp then affRot (readS (s.core i.core) i.pre o.base.toNat) else 0
    let dst := i.pre.scalarDest o.data
    let act := i.act o.p != 0#64
    let s := if act then s.killDest i dst 1#64 else s
    let k := VKind.send dst (bitsNat d 0 10) (bitsNat d 16 6) (if act then s.msgWords i o else 0) o.sp (s.msgAddr i o).toNat rot
    s.sendOp i (i.flagOf o.fsel) ((s.ratio i.core).scale 24000) k (if act then s.msgReqs i o .rd else []))
/-- RECV: outside DET its message is taken as the bundle issues (R380). -/
def execRecv (o : Msg) (s : State) : Out :=
  s.slotOp (fun i => s.msgBad i o .wr) (fun i =>
    let d := s.msgScalar i o
    let rot := if o.sp then affRot (readS (s.core i.core) i.pre o.base.toNat) else 0
    let dst := i.pre.scalarDest o.data
    let act := i.act o.p != 0#64
    let n := if act then s.msgWords i o else 0
    let r := if act && !(s.isDet i.core) then s.takeRq (bitsNat d 0 10) (bitsNat d 16 6) s.nextId else (none, s)
    let s := if act then r.2.killDest i dst 1#64 else r.2
    let k := VKind.recv dst (bitsNat d 0 10) (bitsNat d 16 6) n o.sp (s.msgAddr i o).toNat rot r.1
    s.sendOp i (i.flagOf o.fsel) ((s.ratio i.core).scale (200 + s.msgWords i o)) k (if act then s.msgReqs i o .wr else []))

/-- The place of a word of a global buffer; none is an error response, as remote memory gives (R379). -/
def placeIn (pages : List Req) (a : Nat) : Option Nat :=
  match pages.find? (fun r => r.loc != .sp 0 && r.va / 65536 == a / 65536) with
  | some r => (match r.loc with | .pa q => if r.err || isRemote (q + (a - r.va)) then none else some (q + (a - r.va)) | _ => none)
  | none => none
/-- One word of a buffer read, or written. -/
def State.wordRead (s : State) (core : Nat) (p : Part) (sp : Bool) (rot : Nat) (pages : List Req) (a : Nat) : Except EngErr Nat × State :=
  if sp then s.engRead core p (.sp core rot) a 4 none
  else match (placeIn pages a).bind (fun pa => (s.mem.load pa 4).map (fun x => (pa, x))) with
    | some (pa, x) => (.ok x, s.updMem (fun m => (m.noteRead pa .cg).noteCopy pa (dieOf core) .cg))
    | none => (.error ⟨2, 0, a⟩, s)
def State.wordWrite (s : State) (core : Nat) (p : Part) (sp : Bool) (rot : Nat) (pages : List Req) (a x : Nat) : Except EngErr Unit × State :=
  if sp then s.engWrite core p (.sp core rot) a 4 x none
  else match (placeIn pages a).bind (fun pa => s.homeStore pa 4 x .cg) with
    | some s => (.ok (), s)
    | none => (.error ⟨2, 0, a⟩, s)
/-- The words of a message's buffer as the engine of the M slot reads them (R163). -/
def State.bufRead (core : Nat) (p : Part) (sp : Bool) (rot : Nat) (pages : List Req) : Nat → State → Nat → Except EngErr (List W32) × State
  | 0, s, _ => (.ok [], s)
  | n + 1, s, a =>
    match s.wordRead core p sp rot pages a with
    | (.error e, s) => (.error e, s)
    | (.ok x, s) =>
      match State.bufRead core p sp rot pages n s (a + 4) with
      | (.ok r, s) => (.ok (BitVec.ofNat 32 x :: r), s)
      | (.error e, s) => (.error e, s)
def State.bufWrite (core : Nat) (p : Part) (sp : Bool) (rot : Nat) (pages : List Req) : List W32 → State → Nat → Option EngErr × State
  | [], s, _ => (none, s)
  | x :: r, s, a =>
    match s.wordWrite core p sp rot pages a x.toNat with
    | (.error e, s) => (some e, s)
    | (.ok _, s) => State.bufWrite core p sp rot pages r s (a + 4)
/-- A buffer access failed: MEMERR is deferred and no status is written (R161, R379). -/
def State.msgErr (s : State) (core : Nat) (o : VarOp) (e : EngErr) : State :=
  (s.updOpSplit core o (fun sp => sp.defer (Deferred.mk false o.pc e.addr 1#64 0 o.id))).retireOp core o
/-- The status word of Table 18.4 is written and the operation leaves. -/
def State.msgStatus (s : State) (core : Nat) (o : VarOp) (d : Dest) (x : Nat) : State :=
  (s.bank core o.wave d 1#64 o.id (RMap.wr [] 0 (BitVec.ofNat 64 x))).retireOp core o
def unreachable : Nat := 2 ^ 49
/-- The partition's peers and its own ID may be reached. Assumption 33. -/
def State.reach (s : State) (p : Part) (q : Nat) : Bool := q == p.acc || (p.peers.contains q && s.linkUp)
/-- A SEND completes: its buffer is read, the message leaves, the status is written with its number since the launch began. A message to the
own ID enters the own ingress when its queue has room; under DET one that finds none at its padded ic holds the core (R185, R379, R380, R386).
Assumption 33. -/
def execSendCompletion (core id : Nat) (s : State) : Out :=
  .next (match s.op? core id with
    | none => s
    | some o =>
      match o.kind with
      | .send d q ch n sp a rot =>
        if o.rem ≠ 0 ∨ marksHold (s.core core).ops o.uid o.id q = true ∨ (n ≠ 0 ∧ sendsHold (s.core core).ops o.uid o.id q ch = true) then s
        else if n = 0 then s.retireOp core o
        else match s.partOf core with
          | none => s.retireOp core o
          | some p =>
            if o.fail ≠ 0 ∨ s.reach p q = false then s.msgStatus core o d unreachable
            else if q == p.acc && !(s.rqRoom q n) then if o.padded then s.holdOverrun core else { s with fresh := s.fresh + 1 }.updOp core id (fun o => { o with rem := 1 + Config.freeNat s.fresh })
            else match State.bufRead core p sp rot o.reqs n s a with
              | (.error e, s) => s.msgErr core o e
              | (.ok ws, s) =>
                let key := 64 * p.num + ch
                let seq := NMap.getD (s.peer q).sseq 0 key
                let s := s.updPeer q (fun x => { x with sseq := NMap.put x.sseq key (seq + 1), sentW := x.sentW + 1 })
                let s := if q = p.acc then s.updPeer q (fun x => { x with
                    rq := x.rq ++ [(NMap.getD x.rseq 0 ch, ch, ws)], rseq := NMap.put x.rseq ch (NMap.getD x.rseq 0 ch + 1), fence := x.fence + 1 })
                  else s.emit (.message q (s.peer q).sentM ch ws)
                (s.msgStatus core o d (2 ^ 32 * (n - 1) + (seq - NMap.getD (s.netBase o.grid q).sseq 0 key) % 2 ^ 32)).dataHere core
      | _ => s)

/-- Words of a message in the buffer, then the status with its number `seq`; completion is an acquire (R380). -/
def State.recvDone (s : State) (core : Nat) (o : VarOp) (d : Dest) (n : Nat) (sp : Bool) (a rot : Nat) (seq : Nat) (ws : List W32) : State :=
  match s.partOf core with
  | none => s.retireOp core o
  | some p =>
    match State.bufWrite core p sp rot o.reqs (ws.take n) s a with
    | (some e, s) => s.msgErr core o e
    | (none, s) =>
      (s.acquire core).msgStatus core o d (2 ^ 48 * (if ws.length = n then 0 else 1) + 2 ^ 32 * ((ws.length - 1) % 2048) + seq % 2 ^ 32)
/-- How long the hold of a RECV lasts: 10 ms of the time base, in ns (R380). -/
def recvTime : Nat := 10000000
/-- The hold of a RECV begins, and with it its 10 ms; `now` is the time base (R380). -/
def VarOp.waitFrom (o : VarOp) (now : Nat) : VarOp := { o with reqs := o.reqs.map (fun r : Req => if r.again then r else { r with again := true, since := now }) }
/-- The own ID of a core's partition. -/
def State.ownId (s : State) (core q : Nat) : Bool := match s.partOf core with | some p => q == p.acc | none => false
/-- A peer a core's partition can reach. -/
def State.canReach (s : State) (core q : Nat) : Bool := match s.partOf core with | some p => s.reach p q | none => false
/-- A RECV completes; without a message from a peer that cannot be reached its status says so (R386). Under DET its message is taken at its
padded ic; one that has not arrived holds the core, at most 10 ms (R380). -/
def execRecvCompletion (core id : Nat) (s : State) : Out :=
  .next (match s.op? core id with
    | none => s
    | some o =>
      match o.kind with
      | .recv d q ch n sp a rot got =>
        if o.rem ≠ 0 then s
        else if n = 0 then s.retireOp core o
        else
          let num := fun (x : Nat) => x - NMap.getD (s.netBase o.grid q).rseq 0 ch
          match got with
          | some m => s.recvDone core o d n sp a rot (num m.1) m.2
          | none =>
            match s.takeRq q ch id with
            | (some m, s) => (s.recvDone core o d n sp a rot (num m.1) m.2).dataHere core
            | (none, s) =>
              if !(s.isDet core) || !(s.canReach core q) then (s.msgStatus core o d unreachable).dataHere core
              else if o.reqs.any (fun r => r.again) then s
              else ((s.updOp core id (fun o => o.waitFrom s.timeNs)).holdOverrun core).schedule (recvTime * tpNs) (.recvHoldTimeout core id)
      | _ => s)
/-- The time base a RECV hold began at. -/
def VarOp.heldFrom (o : VarOp) : Option Nat :=
  match o.kind with | .recv _ _ _ _ _ _ _ none => (o.reqs.find? (fun r => r.again)).map (·.since) | _ => none
/-- The 10 ms of a RECV hold are over: the status says unreachable, no word is written. A slewed time base may not be there yet, and the test
then comes again (R372, R380). -/
def execRecvHoldTimeout (core id : Nat) (s : State) : Out :=
  .next (match s.op? core id with
    | none => s
    | some o =>
      match o.kind with
      | .recv d _ _ _ _ _ _ none =>
        (match o.heldFrom with
          | none => s
          | some t =>
            if o.rem ≠ 0 then s
            else if s.timeNs < t + recvTime then s.schedule ((t + recvTime - s.timeNs) * tpNs) (.recvHoldTimeout core id)
            else (s.msgStatus core o d unreachable).dataHere core)
      | _ => s)

/-- A remote request without a response for 1 ms ends with an error response: MEMERR for an access, the unreachable bit for a SEND. Before
that it waits on. A RECV sends no request: it ends so when its peer cannot be reached and its message is not there (R386). -/
def execRemoteTimeout (core id : Nat) (s : State) : Out :=
  .next (match s.op? core id with
    | none => s
    | some o =>
      match o.kind with
      | .send d q _ n _ _ _ =>
        if n ≠ 0 ∧ o.reqs.any (fun r => decide (r.since + responseTime ≤ s.now)) ∧ s.ownId core q = false then
          (s.msgStatus core o d unreachable).dataHere core
        else s
      | .recv d q _ n _ _ _ none => if n ≠ 0 ∧ s.canReach core q = false then (s.msgStatus core o d unreachable).dataHere core else s
      | .recv _ _ _ _ _ _ _ (some _) => s
      | _ =>
        let late := o.overdue (s.core core) s.now
        if late = 0#64 then s else s.progress core id late)

/-! ### Padding overruns (R185) -/

/-- Data of an operation is late. Told ahead of its padded ic, the operation waits there; at its padded ic the core takes a core-wide
hold and OVERRUN rises (R185). -/
def execPaddingOverrun (core id : Nat) (s : State) : Out :=
  .next (if !(s.isDet core) then s
    else if s.padDue core id then s.holdOverrun core
    else s.updCore core (fun c => { c with lates := if c.lates.contains id then c.lates else c.lates ++ [id] }))
/-- The late data arrives; once nothing at its padded ic waits for data, the hold ends (R185). -/
def execOverrunHoldEnd (core : Nat) (s : State) : Out :=
  .next (if (s.lateDue core).isEmpty then s.dataHere core
    else s.updCore core (fun c => { c with lates := c.lates.filter (fun id => !((s.lateDue core).contains id)) }))

end Sys2Proof.Machine
end

