-- ==== Sys2Proof/Machine/Control.lean ====
section
/-! DEFINITION. The C slot: branches, loops and nests, waits, barriers, shape, YIELD, EXIT, TRAP, BKPT and ERET
(R125 to R145). The split's PC already names the successor when its C slot acts. -/

namespace Sys2Proof.Machine

/-- A C-slot operation writes a scalar at the end of its issue cycle (R125). -/
def State.cWrite (s : State) (i : Issue) (n : Nat) (x : W64) : State :=
  let key := i.pre.skey n
  ({ (s.updIssSplit i (fun sp => sp.kill (.s key) 1#64)) with nextId := s.nextId + 1 }).bankS i.core i.wave key s.nextId x

/-- A scalar operand as the bundle reads it. -/
def State.cRead (s : State) (i : Issue) (n : BitVec 6) : W64 := readS (s.core i.core) i.pre n.toNat
/-- A C-slot operation without trap. -/
def State.cOp (s : State) (eff : Issue → State) : Out := s.slotOp (fun _ => none) eff
/-- A predicated C-slot operation: it acts if some lane is active (R126). -/
def State.cPred (s : State) (p : Pred) (eff : Issue → State) : Out := s.cOp (fun i => if i.act p = 0#64 then s else eff i)

/-- Move a split's PC, modulo 2 to the 64; a branch leaves an expansion (assumption 26). -/
def State.jump (s : State) (i : Issue) (pc : Int) : State :=
  s.updIss i (fun w => (w.leaveMacro i.split).updSplit i.split (fun sp => { sp with pc := (pc % 2 ^ 64).toNat }))
def Issue.target (i : Issue) (ofs : BitVec 24) : Int := (i.sp.pc : Int) + ofs.toInt

/-- NOP (R65). -/
def execNop (s : State) : Out := s.cOp (fun _ => s)
/-- BR (R128). -/
def execBr (p : Pred) (ofs : BitVec 24) (s : State) : Out := s.cPred p (fun i => s.jump i (i.target ofs))
/-- The conditions of Table 5.2 over the active lanes. -/
def State.brHolds (s : State) (i : Issue) (m : Lanes) : BrCond → Bool
  | .nz n => s.cRead i n != 0#64
  | .z n => s.cRead i n == 0#64
  | .neg n => (s.cRead i n).getLsbD 63
  | .nneg n => !(s.cRead i n).getLsbD 63
  | .any p => (i.pre.pred p.toNat &&& m) != 0#64
  | .all p => (~~~ (i.pre.pred p.toNat) &&& m) == 0#64
  | .none p => (i.pre.pred p.toNat &&& m) == 0#64
/-- BRC (R128). -/
def execBrc (p : Pred) (c : BrCond) (ofs : BitVec 24) (s : State) : Out :=
  s.cPred p (fun i => if s.brHolds i (i.act p) c then s.jump i (i.target ofs) else s)
/-- The taken lanes of BRV (R129). -/
def brvTaken (i : Issue) (p : Pred) (neg : Bool) (pc : BitVec 3) : Lanes :=
  i.act p &&& (if neg then ~~~ (i.pre.pred pc.toNat) else i.pre.pred pc.toNat)
/-- BRV would push onto a full stack (R61). -/
def brvOver (i : Issue) (p : Pred) (neg : Bool) (pc : BitVec 3) : Bool :=
  let t := brvTaken i p neg pc
  t != 0#64 && (i.sp.mask &&& ~~~ t) != 0#64 && decide (4 ≤ i.pre.splits.length) && decide (8 ≤ i.sp.stack.length)
def brvBad (i : Issue) (p : Pred) (neg : Bool) (pc : BitVec 3) : Option TrapInfo :=
  if brvOver i p neg pc then some (i.fault .splitovf 4) else none
/-- The lowest free split number. -/
def Wave.freeSplit (w : Wave) : Nat := ((List.range 4).find? (fun k => (NMap.get? w.splits k).isNone)).getD 3
/-- BRV: continue, move, create a split, or defer (R60, R129). R60 gives the new split's latches no contents: it takes copies of the
latches of the split that creates it, which keeps its own (DESIGN CHOICE, assumption 72). -/
def execBrv (p : Pred) (neg : Bool) (pc : BitVec 3) (ofs : BitVec 24) (join : BitVec 10) (s : State) : Out :=
  s.slotOp (fun i => brvBad i p neg pc) (fun i =>
    let t := brvTaken i p neg pc
    let n := i.sp.mask &&& ~~~ t
    let tgt : Nat := (i.target ofs % 2 ^ 64).toNat
    if t = 0#64 then s
    else if n = 0#64 then s.jump i (i.target ofs)
    else if i.pre.splits.length < 4 then
      let s := s.drainWin i.core i.wave i.split
      s.updIss i (fun w =>
        let cur := w.split i.split
        let new : Split := { Split.start w.freeSplit tgt t w.nextAge with
          gap := cur.gap, fa := cur.fa, fb := cur.fb, claims := cur.claims, latV := cur.latV, latM := cur.latM }
        { ((w.updSplit i.split (fun _ => { cur.restart with mask := n })).setSplit new) with nextAge := w.nextAge + 1 })
    else
      s.updIssSplit i (fun sp => { sp with mask := n, stack := { pc := tgt, mask := t, join := i.sp.pc + join.toNat, rejoin := false } :: sp.stack }))
/-- JMPI (R128). -/
def execJmpi (p : Pred) (n : BitVec 6) (s : State) : Out := s.cPred p (fun i => s.jump i (s.cRead i n).toNat)
/-- CALL: the link is the next PC (R128). -/
def execCall (p : Pred) (n : BitVec 6) (ofs : BitVec 24) (s : State) : Out :=
  s.cPred p (fun i => (s.jump i (i.target ofs)).cWrite i n.toNat (BitVec.ofNat 64 (i.sp.pc + 1)))
/-- RET (R128). -/
def execRet (p : Pred) (n : BitVec 6) (s : State) : Out := s.cPred p (fun i => s.jump i (s.cRead i n).toNat)

/-! ### Loops and nests -/

/-- Shift of the stage window in the lanes of a mask: p7 from p6, p6 from p5, p5 from p4, p4 the bit (R130). -/
def stageShift (w : Wave) (old : Wave) (m : Lanes) (bit : Bool) : Wave :=
  (((w.setPred 7 m (old.pred 6)).setPred 6 m (old.pred 5)).setPred 5 m (old.pred 4)).setPred 4 m (if bit then BitVec.allOnes 64 else 0#64)
/-- LOOP (R130). -/
def execLoop (n : BitVec 6) (ofs : BitVec 24) (sw : Bool) (rot : BitVec 5) (s : State) : Out :=
  s.cOp (fun i =>
    let c := (s.cRead i n).toNat
    let lc := c % 2 ^ 32
    let ec := c / 2 ^ 32 % 8
    let go := fun (c' : Nat) (bit : Bool) =>
      let s := s.jump i (i.target ofs)
      let s := s.updIss i (fun w =>
        let w := if sw then stageShift w i.pre i.sp.mask bit else w
        { w with rbase := w.rbase - rot })
      s.cWrite i n.toNat (BitVec.ofNat 64 c')
    if 0 < lc then go (c - 1) true
    else if sw && decide (0 < ec) then go (c - 2 ^ 32) false
    else s.cWrite i n.toNat (BitVec.ofNat 64 c))
/-- LMARK pins bundles and changes no architectural state (R131). -/
def execLmark (_n1 : BitVec 5) (s : State) : Out := s.cOp (fun _ => s)

/-- Write the induction scalars of a nest point (R132). Those of later points count as writes of the body's last bundle for the dead results of
R53 (DESIGN CHOICE, assumption 93). -/
def State.putPoint (s : State) (i : Issue) (si : Nat) (pt : List (Nat × Nat)) : State :=
  pt.foldl (fun s x => s.cWrite i (si + x.1) (BitVec.ofNat 64 x.2)) s
/-- Whether a NEST takes its bounds from the loop sequencer (R132, R258). -/
def State.nestSeq (s : State) (i : Issue) (n : BitVec 6) : Bool := (s.cRead i n).getLsbD 63
/-- The trap of a sequencer NEST: ILLOP without a matching declared nest, MEMERR for a failed sequencer (R132, R259). Assumption 18. -/
def State.nestBad (s : State) (i : Issue) (n : BitVec 6) (d1 : BitVec 3) : Option TrapInfo :=
  if s.nestSeq i n then
    match (s.issGrid i).bind (·.nest) with
    | none => some (i.fault .illop 4)
    | some nest =>
      if nest.1.length ≠ d1.toNat + 1 then some (i.fault .illop 4)
      else if (s.cluster (clusterOf i.core)).seqBad then some (i.fault .memerr 4) else none
  else none
/-- NEST (R132, R258). -/
def execNest (n si : BitVec 6) (d1 : BitVec 3) (n1 : BitVec 5) (s : State) : Out :=
  s.slotOp (fun i => s.nestBad i n d1) (fun i =>
    let body := n1.toNat + 1
    let seq := s.nestSeq i n
    let d := d1.toNat + 1
    let g := s.issGrid i
    let dims := if seq then (match g.bind (·.nest) with | some x => x.1 | none => [])
      else (List.range d).map (fun k => (readS (s.core i.core) i.pre (n.toNat + k)).toNat % 2 ^ 32)
    let order := if seq then (match g.bind (·.nest) with | some x => x.2 | none => []) else List.range d
    let sl := if seq then (match g with | some g => g.slice i.core i.pre.widx | none => (0, 0)) else (0, prod dims)
    if sl.2 ≤ sl.1 then s.jump i (i.sp.pc + body + 1)
    else
      let s := s.updIssSplit i (fun sp => { sp with nest := some (Nest.mk i.sp.pc body si.toNat dims order sl.1 sl.2) })
      s.putPoint i si.toNat (nestPoint dims order sl.1))
/-- The end of a nest body: the next point, or the bundle after the body (R132). -/
def State.nestNext (s : State) (i : Issue) : State :=
  match i.sp.nest with
  | none => s
  | some x =>
    if i.sp.pc ≠ x.pc + x.n then s
    else if x.lin + 1 < x.stop then s.updIssSplit i (fun sp => { sp with pc := x.pc + 1, nest := some { x with lin := x.lin + 1 } })
    else s.updIssSplit i (fun sp => { sp with pc := x.pc + x.n + 1, nest := none })

/-- A bundle's slots have acted: after the last bundle of a nest body the induction scalars of the next point land (R132). -/
def State.bundleEnd (s : State) (i : Issue) : State :=
  match s.issue, i.sp.nest with
  | some _, some x =>
    let s := { s with issue := none }
    if i.sp.pc = x.pc + x.n ∧ x.lin + 1 < x.stop then s.putPoint i x.si (nestPoint x.dims x.order (x.lin + 1)) else s
  | _, _ => { s with issue := none }

/-! ### Waits and tags -/

/-- CLAUSE sets the split's clause numbers (R75, R76); its wait holds the bundle before it issues. -/
def execClause (_wait : BitVec 12) (fa fb : BitVec 4) (s : State) : Out :=
  s.cOp (fun i => s.updIssSplit i (fun sp => { sp with fa := fa.toNat, fb := fb.toNat }))
/-- WFLG has no effect once it issues (R133). -/
def execWflg (_wait : BitVec 12) (s : State) : Out := s.cOp (fun _ => s)
/-- A passed tag wait is an acquire: the core's L1 lines but those of .c go (R134, R156). -/
def State.tagAcquire (s : State) (i : Issue) : State := s.updCore i.core (fun c => c.l1Drop false)
/-- TWANY and TFFR with a zero mask trap with ILLOP (R134). -/
def State.zeroMask (s : State) (i : Issue) (n : BitVec 6) : Option TrapInfo :=
  if s.cRead i n = 0#64 then some (i.fault .illop 4) else none
/-- TWANY (R134). -/
def execTwany (n : BitVec 6) (s : State) : Out := s.slotOp (fun i => s.zeroMask i n) (fun i => s.tagAcquire i)
/-- TWALL (R134). -/
def execTwall (n : BitVec 6) (s : State) : Out := s.cOp (fun i => s.tagAcquire i)
/-- TFFR: the index of the lowest set tag of the mask (R134). -/
def execTffr (sd n : BitVec 6) (s : State) : Out :=
  s.slotOp (fun i => s.zeroMask i n) (fun i =>
    (s.tagAcquire i).cWrite i sd.toNat (BitVec.ofNat 64 ((lanesOf (i.tags &&& s.cRead i n)).headD 64)))
/-- TCLR: a tag that an operation sets in the same issue cycle stands (R135, R233). Assumption 30. -/
def execTclr (p : Pred) (n : BitVec 6) (s : State) : Out :=
  s.cPred p (fun i => s.updCore i.core (fun c => c.tagClear (s.cRead i n &&& ~~~ c.setNow)))

/-! ### Barriers -/

/-- BAR (R136). -/
def execBar (id : BitVec 4) (s : State) : Out := s.cOp (fun i => s.arriveBar i (.bar id.toNat))
/-- GBAR (R136). -/
def execGbar (id : BitVec 2) (s : State) : Out := s.cOp (fun i => s.arriveBar i (.gbar id.toNat))
/-- SBAR from a core outside the set, or on an unfilled entry, traps with ILLOP (R136). -/
def State.sbarBad (s : State) (i : Issue) (n : Byte) : Option TrapInfo :=
  match s.issGrid i with
  | some g => if g.member n.toNat i.pre.lcore then none else some (i.fault .illop 4)
  | none => some (i.fault .illop 4)
/-- SBAR (R136). -/
def execSbar (n : Byte) (s : State) : Out := s.slotOp (fun i => s.sbarBad i n) (fun i => s.arriveBar i (.sbar n.toNat))

/-! ### Shape, random index, yielding and ending -/

/-- SHAPE (R137). -/
def execShape (p : Pred) (r : BitVec 3) (s : State) : Out := s.cPred p (fun i => s.updIss i (fun w => { w with rowlog := r }))
/-- Set the random index; in trap mode the handler's value stands after ERET (R138, R189). -/
def Wave.setRng (w : Wave) (x : BitVec 48) : Wave :=
  { w with rngidx := x, trap := w.trap.map (fun t => { t with rngidx := x }) }
/-- RNGIX (R138). -/
def execRngix (p : Pred) (n : BitVec 6) (s : State) : Out :=
  s.cPred p (fun i => s.updIss i (fun w => w.setRng ((s.cRead i n).truncate 48)))
/-- YIELD: the split waits for every other split of the core that was ready, or 64 ic; nothing under DET (R141).
Which splits were ready is found when its bundle issues; here it names every other live split. -/
def execYield (s : State) : Out :=
  s.cOp (fun i =>
    if s.isDet i.core then s
    else
      let others := (s.core i.core).waves.flatMap (fun e => e.2.splits.keys.filterMap (fun k =>
        if e.1 = i.wave ∧ k = i.split then none else some (e.1, k)))
      s.updIssSplit i (fun sp => { sp with yield := some { others := (match sp.yield with | some y => y.others | none => others), left := 64 } }))
/-- After an EXIT: a split that has ended keeps its claims on the engines (R176), and a later split of its number does not take its
deferred traps (R161, R187). -/
def State.splitGone (s : State) (i : Issue) (sp : Split) : State :=
  if (NMap.get? (s.wave i.core i.wave).splits i.split).isSome then s
  else (s.countEnd i.core i.wave).updCore i.core (fun c => { ((c.leave [(0, sp)]).served (i.wave, i.split)) with ops := c.ops.map (fun o : VarOp =>
    if o.uid = i.pre.uid ∧ o.split = i.split ∧ o.handler = false then { o with split := 4 } else o) })
/-- EXIT (R142). -/
def execExit (p : Pred) (s : State) : Out :=
  s.cOp (fun i =>
    let x := i.act p
    if x = 0#64 then s
    else
      let old := (s.wave i.core i.wave).split i.split
      let s := s.drainWin i.core i.wave i.split
      let s := s.updIss i (fun w =>
        let sp := w.split i.split
        let sp := { sp with mask := sp.mask &&& ~~~ x }
        let w := w.updSplit i.split (fun _ => sp)
        if sp.mask = 0#64 then (w.leaveMacro i.split).reap i.split else w)
      s.splitGone i old)

/-! ### Traps -/

/-- TRAP n: the bundle retires and the split traps at its boundary (R144). -/
def execTrap (p : Pred) (n : Byte) (s : State) : Out :=
  s.cPred p (fun i => s.updIssSplit i (fun sp => { sp with trapn := some n.toNat }))
/-- BKPT traps before its bundle executes (R144). -/
def bkptBad (i : Issue) (p : Pred) : Option TrapInfo := if i.act p = 0#64 then none else some (i.fault .bkpt 4)
def execBkpt (p : Pred) (s : State) : Out := s.slotOp (fun i => bkptBad i p) (fun _ => s)
/-- The ACTION field of TRESUME (Table 7.4). -/
def Wave.action (w : Wave) : Nat := match w.trap with | some t => bitsNat t.resume.toNat 0 2 | none => 0
/-- ERET outside trap mode traps with ILLOP (R145); the reserved action is a DBLTRAP, found as the bundle issues (R124, R191). -/
def eretBad (i : Issue) : Option TrapInfo :=
  if !i.pre.inTrap then some (i.fault .illop 4) else if i.pre.action = 3 then some (i.fault .dbltrap 4) else none
/-- ERET with an action of TRESUME (R191). -/
def State.eret (s : State) (action : Nat) : Out := s.slotOp eretBad (fun i => s.returnTrap i.core i.wave action)
/-- ERET with action 00 in TRESUME: replay (R145, R190, R191). -/
def execEretReplay (s : State) : Out := s.eret 0
/-- ERET with action 01 in TRESUME: resume at RPC (R191). -/
def execEretResumeAtRpc (s : State) : Out := s.eret 1
/-- ERET with action 10 in TRESUME: end the wave (R191). -/
def execEretEndWave (s : State) : Out := s.eret 2

end Sys2Proof.Machine
end

