-- ==== Sys2Proof/Machine/SysReg.lean ====
section
/-! DEFINITION. GETS and SETS over the system registers (R139, R140, Table 5.3) and the trap record (Table 7.4). -/

namespace Sys2Proof.Machine

/-- Trap-record numbers outside trap mode and command registers without privilege trap with PRIV; writes to a read-only
record register are illegal in trap mode (R139). Assumption 63. -/
def sysBad (i : Issue) (n : Nat) (write : Bool) : Option TrapInfo :=
  if 0x40 ≤ n ∧ n ≤ 0x5F then
    if !i.pre.inTrap then some (i.fault .priv 4)
    else if write && n != 0x4A then some (i.fault .illop 4) else none
  else if 0x100 ≤ n ∧ !i.pre.priv ∧ !(isCmdCore i.core) then some (i.fault .priv 4)
  else none

/-- WSTAT of a wave (Table 5.3); in translated code bit 4 reads 0 (R332, R333). Bit 4 reads 1 in the native trap handler of a carried wave too: it says how the trapped wave runs
(DESIGN CHOICE, assumption 73). -/
def State.wstat (s : State) (i : Issue) : W64 :=
  let arrays := (s.cluster (clusterOf i.core)).arrays.length
  let native := match i.pre.trap with | some t => t.nat | none => s.nativeAt i.core i.pre i.sp
  BitVec.ofNat 64 ((s.isDet i.core).toNat + 2 * (s.ratio i.core).code + 2 ^ 3 * i.pre.inTrap.toNat +
    2 ^ 4 * (i.pre.carried && native.isNone).toNat + 2 ^ 5 * i.pre.priv.toNat + 2 ^ 6 * arrays)

/-- The value a system register reads (Table 5.3). -/
def State.sysRead (s : State) (i : Issue) (n : Nat) : W64 :=
  let w := i.pre
  match n with
  | 0x000 => w.aflg.zeroExtend 64
  | 0x001 => w.rowlog.zeroExtend 64
  | 0x002 => w.rbase.zeroExtend 64
  | 0x003 => w.rngidx.zeroExtend 64
  | 0x004 => w.rngseed
  | 0x005 => i.sp.clausen
  | 0x006 => w.flagsWord
  | 0x007 => w.splitsWord i.split
  | 0x008 => w.execWord i.split
  | 0x010 => if s.isDet i.core then w.retc * 1024#64 else BitVec.ofNat 64 s.timeNs
  | 0x011 => if s.isDet i.core then w.retc else BitVec.ofNat 64 (s.cluster (clusterOf i.core)).ic
  | 0x012 => w.retc
  | 0x013 => w.stalled.zeroExtend 64
  | 0x020 => i.tags
  | 0x021 => i.tagerr
  | 0x030 => s.wstat i
  | _ =>
    if 0x40 ≤ n ∧ n ≤ 0x5F then (match w.trap with | some t => t.reg w.carried n | none => 0#64)
    else match s.partOf i.core with
      | some p => s.cmdRead p n
      | none => 0#64

/-- SETS of SHP with ROWLOG 7 traps with ILLOP (R48). Assumption 63. -/
def State.setsBad (s : State) (i : Issue) (n : Nat) (src : BitVec 6) : Option TrapInfo :=
  match sysBad i n true with
  | some t => some t
  | none => if n = 0x001 ∧ bitsNat (s.cRead i src).toNat 0 3 = 7 then some (i.fault .illop 4) else none

/-- The effect of writing a system register; reserved fields ignore writes (R7, R139). -/
def State.sysWrite (s : State) (i : Issue) (n : Nat) (v : W64) : State :=
  match n with
  | 0x000 => s.updIss i (fun w => { w with aflg := w.aflg &&& ~~~ (v.truncate 6) })
  | 0x001 => s.updIss i (fun w => { w with rowlog := v.truncate 3 })
  | 0x002 => s.updIss i (fun w => { w with rbase := v.truncate 5 })
  | 0x003 => s.updIss i (fun w => w.setRng (v.truncate 48))
  | 0x004 => s.updIss i (fun w => { w with rngseed := v })
  | 0x013 => s.updIss i (fun w => { w with stalled := v.truncate 32 })
  | 0x04A => s.updIss i (fun w => { w with trap := w.trap.map (fun t => { t with resume := v &&& 0x0003FFFFFFFFFFFF#64 }) })
  | _ => match s.partOf i.core with
    | some p => s.cmdWrite p.num n v
    | none => s

/-- GETS (R139). -/
def execGets (p : Pred) (sd : BitVec 6) (num : BitVec 12) (s : State) : Out :=
  s.slotOp (fun i => if i.act p = 0#64 then none else sysBad i num.toNat false) (fun i =>
    if i.act p = 0#64 then s else s.cWrite i sd.toNat (s.sysRead i num.toNat))
/-- SETS (R139). -/
def execSets (p : Pred) (num : BitVec 12) (src : BitVec 6) (s : State) : Out :=
  s.slotOp (fun i => if i.act p = 0#64 then none else s.setsBad i num.toNat src) (fun i =>
    if i.act p = 0#64 then s else s.sysWrite i num.toNat (s.cRead i src))

end Sys2Proof.Machine
end

