-- ==== Sys2Proof/Machine/Fetch.lean ====
section
/-! DEFINITION. Fetching and decoding a split's next bundle or Beyrum word: its address, its section, its translation,
and the encodings that are illegal in the wave that would issue them (R42, R52, R57, R58, R72, R77 to R80, R127, R132,
R146, R189, R295, R311). -/

namespace Sys2Proof.Machine

/-- What a fetch finds. -/
inductive Fetched where
  | ok (b : Bundle)
  | trap (t : TrapInfo)
  | miss (va : Nat)
  deriving DecidableEq, Repr

/-- Bytes of a code unit. -/
def Wave.codeUnit (w : Wave) : Nat := if w.carriedNow then 8 else 32

/-! ### Registers an operation names -/

def opndV (o : Opnd) (wide : Bool) : List Nat := match o with | .v n => n.toNat :: (if wide then [n.toNat + 1] else []) | _ => []
def opndS (o : Opnd) : List Nat := match o with | .s n => [n.toNat] | _ => []
/-- Vector register codes an operation names. -/
def vectorRegs (i : Instr) : List Nat :=
  match i.vinfo with
  | some v => v.srcs.flatMap (fun s => opndV s.1.op s.2) ++ (match v.dst with | some d => opndV d v.dwide | none => [])
  | none =>
    match i with
    | .ldset o => opndV o.data false
    | .cas o => opndV o.data o.ty.wide ++
        (match o.data with | .v n => (if o.ty.wide then [n.toNat + 2, n.toNat + 3] else [n.toNat + 1]) | _ => []) ++
        (match mform (.cas o) with | some f => opndV f.base (f.mode == .pair) | none => [])
    | _ => match mform i with
      | some f => opndV f.data (f.size == 8) ++ opndV f.base (f.mode == .pair)
      | none => []
def nRange (b : BitVec 6) (n : Nat) : List Nat := (List.range n).map (fun k => b.toNat + k)
/-- Descriptor scalars of an X-slot operation (R72). -/
def descrLen (i : Instr) : Option (XOp × Nat) :=
  match i with
  | .cpy o => some (o, 12) | .cpyq o => some (o, 12) | .cpyo o => some (o, 12) | .cpyr o => some (o, 12) | .coll o => some (o, 5)
  | .mxq o => some (o, 8) | .mxrd o _ => some (o, 1) | .mxwr o _ => some (o, 1) | .mxz o => some (o, 1)
  | .mxcrd o => some (o, 1) | .mxcwr o => some (o, 1)
  | _ => none
/-- Scalar register codes an operation names. -/
def scalarRegs (i : Instr) : List Nat :=
  match i.vinfo with
  | some v => v.srcs.flatMap (fun s => opndS s.1.op) ++ (match v.dst with | some d => opndS d | none => [])
  | none =>
    match i with
    | .ldset o => [o.base.toNat]
    | .cas o => (match o.data with | .s n => nRange n (if o.ty.wide then 2 else 1) | _ => []) ++ opndS o.base
    | .drain _ d _ => (match d with | some n => [n.toNat] | none => [])
    | .drainRel _ d _ => (match d with | some n => [n.toNat] | none => [])
    | .flush _ b _ _ _ => nRange b 2
    | .bpref _ _ b _ _ => nRange b 2
    | .pref _ _ b _ _ => [b.toNat]
    | .send o => opndS o.data ++ [o.base.toNat]
    | .recv o => opndS o.data ++ [o.base.toNat]
    | .brc _ c _ => (match c with | .nz n => [n.toNat] | .z n => [n.toNat] | .neg n => [n.toNat] | .nneg n => [n.toNat] | _ => [])
    | .jmpi _ n => [n.toNat] | .call _ n _ => [n.toNat] | .ret _ n => [n.toNat] | .loop n _ _ _ => [n.toNat]
    | .nest n si d _ => nRange n (d.toNat + 1) ++ nRange si (d.toNat + 1)
    | .twany n => [n.toNat] | .twall n => [n.toNat] | .tffr sd n => [sd.toNat, n.toNat] | .tclr _ n => [n.toNat]
    | .rngix _ n => [n.toNat] | .gets _ sd _ => [sd.toNat] | .sets _ _ n => [n.toNat] | .launch n => [n.toNat]
    | _ => match descrLen i with
      | some x => nRange x.1.dbase x.2
      | none => match mform i with
        | some f => opndS f.data ++ opndS f.base
        | none => []
/-- Registers an operation writes, scalars from 128 on (R57). -/
def destRegs (i : Instr) : List Nat :=
  let sc := fun (n : BitVec 6) => 128 + n.toNat
  let od := fun (o : Opnd) (w : Bool) => opndV o w ++ (opndS o).map (· + 128)
  match i.vinfo with
  | some v => (match v.dst with | some d => od d v.dwide | none => [])
  | none =>
    match i with
    | .ldset o => opndV o.data false
    | .st _ => [] | .stX _ => [] | .stb _ => [] | .stt _ => []
    | .send o => od o.data false | .recv o => od o.data false
    | .call _ n _ => [sc n] | .loop n _ _ _ => [sc n] | .nest _ si d _ => (nRange si (d.toNat + 1)).map (· + 128)
    | .tffr sd _ => [sc sd] | .gets _ sd _ => [sc sd]
    | _ => match mform i with
      | some f => od f.data (f.size == 8)
      | none => []

/-- An operation names a queue. -/
def queueRegs (i : Instr) : List Nat :=
  match i.vinfo with
  | some v => v.queues.map (·.toNat) ++ (match v.dst with | some (.q n) => [n.toNat] | _ => [])
  | none => []
/-- Latch operands of an operation with their marks: ring (true for M), distance, mark. -/
def latchRefs (i : Instr) : List (Bool × Nat × Bool) :=
  let f := fun (o : Opnd) (last : Bool) => match o with
    | .fv k => [(false, k.toNat + 1, last)] | .fm k => [(true, k.toNat + 1, last)] | _ => []
  match i.vinfo with
  | some v => v.srcs.flatMap (fun s => f s.1.op s.1.last)
  | none => match i with
    | .st o => f o.data o.last | .stX o => f o.data o.last | .stb o => f o.data o.last | .stt o => f o.data o.last
    | _ => []

/-! ### Encodings illegal in the wave that would issue them -/

/-- Operations that are illegal in trap mode: those of R189, and SETS to a read-only trap-record register (R139). -/
def trapIllegal (i : Instr) : Bool :=
  !(queueRegs i).isEmpty || (descrLen i).isSome ||
  (match i with
    | .ldset _ => true | .send _ => true | .recv _ => true | .bar _ => true | .gbar _ => true | .sbar _ => true
    | .yield => true | .exit _ => true | .launch _ => true | .node _ => true
    | .sets _ n _ => decide (0x40 ≤ n.toNat) && decide (n.toNat ≤ 0x5F) && n != 0x4A#12
    | _ => false)
/-- Operations a command core executes, by slot (R311). -/
def cmdLegal (k : Slot) (i : Instr) : Bool :=
  i == .nop ||
  (match k with
    | .v => (match i.vinfo with | some v => v.isScalar | none => false)
    | .m => (match i with
        | .ldb _ => true | .stb _ => true | .waita _ => true | .fence _ _ _ _ => true | .flush _ _ _ _ _ => true | .pref _ _ _ _ _ => true
        | _ => isAtomic i && (match mform i with | some f => f.data.isS && (f.space == .g || f.space == .h) | none => false))
    | .x => false
    | .c => true)
/-- A scalar operation that reads a latch holding a vector result (R52). -/
def latchKindBad (sp : Split) (i : Instr) : Bool :=
  let scalar := match i.vinfo with | some v => v.isScalar | none => (match i with | .stb _ => true | _ => false)
  scalar && (latchRefs i).any (fun r => decide (r.2.1 ≤ sp.isn) && !(ringScalar (if r.1 then sp.latM else sp.latV) ((sp.isn + 8 - r.2.1) % 8)))
/-- The rules of one slot that only the run decides. A MACRO left over in an expansion has no expansion of its own or holds itself
(assumption 26). A register is illegal from the declared count on, also where that is 104 to 120 and R43 has a kernel that uses v96 and up
declare 128: no trap is stated for it (DESIGN CHOICE, assumption 101). -/
def State.slotIllegal (s : State) (core wslot : Nat) (w : Wave) (sp : Split) (k : Slot) (i : Instr) : Bool :=
  let t := w.inTrap
  (vectorRegs i).any (fun n => decide (w.nv ≤ n) && !(t && decide (n < 8))) ||
  (scalarRegs i).any (fun n => decide (w.ns ≤ n) && !(t && decide (n < 16))) ||
  (queueRegs i).any (fun q => !((s.core core).boundTo q wslot)) ||
  latchKindBad sp i || (t && trapIllegal i) || (isCmdCore core && !(cmdLegal k i)) ||
  (match i with | .macroOp _ n _ => sp.mpc.isSome || (NMap.get? s.pack.cstore n.toNat).isNone | _ => false)
def meetAny (a b : List Nat) : Bool := a.any (fun x => b.contains x)
/-- The first illegal place of a decoded bundle: 1 V, 2 M, 3 X, 4 C (R77, R57). Assumption 64. -/
def State.bundleIllegal (s : State) (core wslot : Nat) (w : Wave) (sp : Split) (b : Bundle) : Option Nat :=
  let bad := fun k i => s.slotIllegal core wslot w sp k i
  if bad .v b.v then some 1
  else if bad .m b.m || meetAny (destRegs b.m) (destRegs b.v) then some 2
  else if bad .x b.x then some 3
  else if bad .c b.c || meetAny (destRegs b.c) (destRegs b.v ++ destRegs b.m) then some 4
  else none

/-! ### The fetch -/

/-- The code byte address a wave's section is found by: the grid's, the stream's or the handler's entry. -/
def State.entryOf (s : State) (core : Nat) (w : Wave) : Nat :=
  match s.partOf core with
  | none => 0
  | some p =>
    if w.inTrap then 32 * bitsNat p.trapvec.toNat 0 48
    else match s.grid? w.grid with
      | some g => g.entry * w.codeUnit
      | none => match p.run.bind (fun r => p.ctxs.find? (fun c => c.num == r)) with | some c => c.entry.toNat | none => 0
/-- Whether a code byte address lies in the section being run; a section the loader did not place has no bounds (assumption 7). -/
def Part.inSection (p : Part) (entry va : Nat) : Bool :=
  match p.codes.find? (fun c => decide (c.base ≤ entry) && decide (entry < c.base + c.len)) with
  | some c => decide (c.base ≤ va) && decide (va < c.base + c.len)
  | none => true
/-- Where the code byte at an address is stored; none while its page has no translation. A stream runs from the cistern
window while the tables are off (assumption 27). -/
def State.codeLoc (s : State) (core va : Nat) : Option Nat :=
  match s.partOf core with
  | none => none
  | some p => if isCmdCore core && !(p.ptroot.getLsbD 0) then some (cisternBase + p.cisBase + va) else s.utlb core va .fetch

/-- A bundle that holds one slot operation alone, with GAP 0 (R80). -/
def Bundle.alone (k : Slot) (i : Instr) : Bundle :=
  { gap := 0#5, v := if k = .v then i else .nop, m := if k = .m then i else .nop, x := if k = .x then i else .nop,
    c := if k = .c then i else .nop }
def Place.slot : Place → Nat | .header => 0 | .v => 1 | .m => 2 | .x => 3 | .c => 4
/-- A word of an expansion with the MACRO's operands: a word marked from bit 64 on takes them in its fields [45:0] (assumption 26). -/
def expand (e fields : Nat) : Nat := if 2 ^ 64 ≤ e then (e % 2 ^ 64) ||| fields else e
/-- The words of an expansion, those of the MACROs in it among them; a MACRO the control store does not hold, or that is being
expanded, is left as it is (R146). Assumption 26. -/
def State.expansion (s : State) : Nat → List Nat → Nat → Nat → List Nat
  | 0, _, _, _ => []
  | f + 1, path, n, fields =>
    ((NMap.get? s.pack.cstore n).getD []).flatMap (fun e =>
      let x := expand e fields
      match decodeWord x with
      | some (.macroOp _ k g) =>
        if (NMap.get? s.pack.cstore k.toNat).isNone || (n :: path).contains k.toNat then [x] else s.expansion f (n :: path) k.toNat g.toNat
      | _ => [x])
/-- The expansion of a MACRO word; none for another word. -/
def State.macroWords (s : State) (w : Nat) : Option (List Nat) :=
  match decodeWord w with
  | some (.macroOp _ n fields) => some (s.expansion 65 [] n.toNat fields.toNat)
  | _ => none
/-- A Beyrum word, or in an expansion the word at the micro PC (R78, R146). -/
def State.wordOf (s : State) (sp : Split) (w : Nat) : Nat :=
  match sp.mpc, s.macroWords w with
  | some m, some l => l.getD (m % rngMark) 0
  | _, _ => w
/-- Ops of the expansion a split stands in. -/
def State.macroLen (s : State) (w : Nat) : Nat := ((s.macroWords w).getD []).length

/-- The bits of a bundle up to a place: header, V, M, X (R65). -/
def upTo (x p : Nat) : Nat := if p = 0 then 0 else x % 2 ^ (16 + 60 * (p - 1))
/-- Decode the code unit of a split. Of two illegal places the first in the order header, V, M, X, C is named (R77): the places before
one that does not decode are held to the rules of the run as well. -/
def State.decodeUnit (s : State) (core wslot : Nat) (w : Wave) (sp : Split) (x : Nat) : Fetched :=
  let bad := fun slot => Fetched.trap (TrapInfo.at .illop slot sp.pc)
  let dec : Decoded :=
    if w.carriedNow then
      let x := s.wordOf sp x
      match decodeWord x with
      | some i => .ok (Bundle.alone ((slotOfClass (bitsNat x 60 4)).getD .c) i)
      | none => .bad (wordPlace x)
    else decodeBundle x
  match dec with
  | .bad p =>
    let k := Place.slot p
    if w.carriedNow then bad k
    else match decodeBundle (upTo x k) with
      | .ok b => (match s.bundleIllegal core wslot w sp b with | some j => bad j | none => bad k)
      | .bad _ => bad k
  | .ok b => match s.bundleIllegal core wslot w sp b with | some k => bad k | none => .ok b
/-- The raw code unit at a split's PC. -/
def State.rawUnit (s : State) (core : Nat) (w : Wave) (sp : Split) : Option Nat :=
  (s.codeLoc core (sp.pc * w.codeUnit)).bind (fun pa => s.mem.load pa w.codeUnit)
/-- The next bundle of a split, its trap, or the page a walk must find (R127, R295). -/
def State.fetch (s : State) (core wslot n : Nat) : Fetched :=
  let w := s.wave core wslot
  let sp := w.split n
  let va := sp.pc * w.codeUnit
  match s.partOf core with
  | none => .trap (TrapInfo.at .pcrange 0 sp.pc)
  | some p =>
    if !(p.inSection (s.entryOf core w) va) then .trap (TrapInfo.at .pcrange 0 sp.pc)
    else match s.codeLoc core va with
      | none => .miss va
      | some pa => match s.mem.load pa w.codeUnit with
        | none => .trap { TrapInfo.at .memerr 0 sp.pc with addr := va }
        | some x => s.decodeUnit core wslot w sp x

end Sys2Proof.Machine
end

