-- ==== Sys2Proof/Machine/Issue.lean ====
section
/-! DEFINITION. Selecting and issuing: readiness, the merge of splits, idle ages and the rotation, the order of traps at a
bundle boundary, the stage at which a bundle begins to act and retires, and the events of the front end (R52 to R55, R60 to
R66, R75, R80, R134, R141, R146, R160, R171, R176 to R190). -/

namespace Sys2Proof.Machine

/-! ### Engines and beats (R180, R181) -/

/-- Beats a bundle claims. -/
def State.usage (s : State) (core : Nat) (w : Wave) (sp : Split) (b : Bundle) : Claims :=
  let r := s.ratio core
  let v : Claims := match b.v.vinfo with
    | some i => if onSfu i.cls then { Claims.zero with sfu := vBeats r i.cls } else { Claims.zero with v := vBeats r i.cls }
    | none => Claims.zero
  let m := if b.m = .nop then 0 else match mform b.m with
    | some f => if fixedMem b.m f then f.degree (s.core core) w sp else 1
    | none => 1
  let carry := if s.pairedAt core then 2 else 4
  let x := match b.x with
    | .nop => 0 | .mxq _ => 1 | .mxrd _ n => n.toNat + 1 | .mxwr _ n => n.toNat + 1 | .mxz _ => 1
    | .mxcrd _ => carry | .mxcwr _ => carry | _ => 3
  { v with m := m, x := x }
/-- Beats claimed by every other live split of the core, and by what splits left behind (R176, R188). -/
def Core.others (c : Core) (wslot n : Nat) : Claims :=
  c.waves.foldl (fun a e => e.2.splits.foldl (fun a x => if e.1 = wslot ∧ x.1 = n then a else a.max x.2.claims) a) c.busy
/-- A bundle's score: the largest idle age among its engines; above all others if it uses none (R177). -/
def score (ages u : Claims) : Nat :=
  if u = Claims.zero then 2 ^ 64
  else Nat.max (Nat.max (if u.v = 0 then 0 else ages.v) (if u.sfu = 0 then 0 else ages.sfu))
    (Nat.max (if u.m = 0 then 0 else ages.m) (if u.x = 0 then 0 else ages.x))

/-! ### Readiness (R176) -/

/-- The clause numbers in force for a bundle's own slots (R75). -/
def bundleFlags (sp : Split) (b : Bundle) : Nat × Nat :=
  match b.c with | .clause _ fa fb => (fa.toNat, fb.toNat) | _ => (sp.fa, sp.fb)
def selects (i : Instr) : FSel := match i.fsel with | some x => x.1 | none => .none
/-- No flag count would pass 63 (R50). -/
def flagsFit (w : Wave) (sp : Split) (b : Bundle) : Bool :=
  let f := bundleFlags sp b
  let num := fun (i : Instr) => match selects i with | .none => 15 | .a => f.1 | .b => f.2
  (List.range 12).all (fun n => decide (w.count n + ([b.v, b.m].filter (fun i => num i == n)).length ≤ 63))
/-- The queues a bundle names allow it to issue (R58). -/
def queuesFit (c : Core) (b : Bundle) : Bool :=
  match b.v.vinfo with
  | none => true
  | some v =>
    v.queues.all (fun q => match NMap.get? c.queues q.toNat with
      | some x => (match x.ents with | e :: _ => e.filled | [] => false) | none => true) &&
    (match v.dst with
      | some (.q n) => (match NMap.get? c.queues n.toNat with | some x => decide (x.ents.length < 8) | none => true)
      | _ => true)
/-- The wait of a bundle is met (R75, R133, R134). A zero mask of TWANY or TFFR traps, so it does not wait. -/
def State.waitMet (s : State) (core : Nat) (w : Wave) (b : Bundle) : Bool :=
  let clear := fun (m : BitVec 12) => (List.range 12).all (fun i => !(m.getLsbD i) || w.count i == 0)
  let tags := (s.core core).tags
  let mask := fun (n : BitVec 6) => readS (s.core core) w n.toNat
  match b.c with
  | .clause m _ _ => clear m
  | .wflg m => clear m
  | .twany n => mask n == 0#64 || (tags &&& mask n) != 0#64
  | .twall n => (tags &&& mask n) == mask n
  | .tffr _ n => mask n == 0#64 || (tags &&& mask n) != 0#64
  | _ => true
/-- A fence (an atomic's acquire order too) or a plain DRAIN of the wave holds later M-slot and X-slot operations (R167,
R171, R378). Assumption 34. -/
def fenceHolds (ops : List VarOp) (uid : Nat) : Bool :=
  ops.any (fun o => o.uid == uid && (match o.kind with
    | .fence _ _ => true | .acqPart => true | .drain rel _ => !rel | _ => false))
/-- The atomic of an operation. -/
def atomOf : Instr → Option Atom
  | .atomAdd o => some o | .atomMin o => some o | .atomMax o => some o | .atomAnd o => some o | .atomOr o => some o
  | .atomXor o => some o | .atomXchg o => some o | .atomIncw o => some o | .cas o => some o | _ => none
/-- The release order of ATOM.s and CAS.s, which read and write as they issue, holds them as a fence does until the wave's earlier accesses
have performed (R162, R167, R171, R176). -/
def releaseFits (c : Core) (w : Wave) (sp : Split) (b : Bundle) (next : Nat) : Bool :=
  match atomOf b.m with
  | some o => o.space != .s || (o.ord != .rel && o.ord != .ar) || active w sp o.p == 0#64 || !(earlierOpen c.ops w.uid next true)
  | none => true
/-- The tag an operation produces. -/
def tagOf (i : Instr) : Option Nat := match i with | .bpref _ t _ _ _ => some t.toNat | _ => (descrLen i).map (fun x => x.1.ptag.toNat)
def isCopy (i : Instr) : Bool := match i with | .cpy _ => true | .cpyq _ => true | .cpyo _ => true | .cpyr _ => true | .coll _ => true | _ => false
/-- The accumulator name an X-slot operation uses. -/
def State.accName (s : State) (core : Nat) (w : Wave) (i : Instr) : Option Nat :=
  match descrLen i with
  | none => none
  | some x =>
    let d := (readS (s.core core) w x.1.dbase.toNat).toNat
    match i with
    | .mxq _ => some (bitsNat d 4 3)
    | .mxrd _ _ => some (bitsNat d 16 3) | .mxwr _ _ => some (bitsNat d 16 3) | .mxz _ => some (bitsNat d 16 3)
    | .mxcrd _ => some (bitsNat d 16 3) | .mxcwr _ => some (bitsNat d 16 3)
    | _ => none
/-- Queue entries, tags and bindings an X-slot operation needs are there (R205, R214, R233, R239). -/
def State.engineFits (s : State) (core : Nat) (w : Wave) (sp : Split) (b : Bundle) : Bool :=
  let cl := s.cluster (clusterOf core)
  let act := match descrLen b.x with | some x => active w sp x.1.p != 0#64 | none => false
  let freeTag := fun (i : Instr) => match tagOf i with | some t => !((s.tagsPending core).contains t) | none => true
  freeTag b.x && freeTag b.m &&
  (!act || ((!(isCopy b.x) || decide (cl.copies.length < 128)) &&
    (match b.x with
      | .mxq _ => if cl.paired then decide ((cl.tasks.filter (fun t => t.core == core)).length < 32) else decide (cl.tasks.length < 256)
      | _ => true) &&
    (match s.accName core w b.x with
      | some a => cl.paired || (NMap.get? cl.bind (a / 2)).isSome || cl.freeArray.isSome
      | none => true)))
/-- Result units of a destination under DET (R183). -/
def unitsOf : Dest → Nat | .v _ (some _) => 2 | .v _ none => 1 | .s _ => 1 | _ => 0
def VKind.dest : VKind → Dest
  | .load d _ _ _ => d | .atom d _ _ _ => d | .waita d _ _ _ _ => d | .ldset d _ _ _ _ _ _ => d | .fdiv d _ _ _ => d
  | .send d _ _ _ _ _ _ => d | .recv d _ _ _ _ _ _ _ => d | _ => .none
/-- Whether a slot operation has a variable latency, and its result units. -/
def varUnits (i : Instr) : Option Nat :=
  match i.vinfo with
  | some v => if v.cls = .fdiv then some (match v.dst with | some (.v _) => 1 | some (.s _) => 1 | _ => 0) else none
  | none =>
    match i with
    | .ldset o => some (if o.data.isZero then 0 else 1)
    | .send o => some (if o.data.isZero then 0 else 1) | .recv o => some (if o.data.isZero then 0 else 1)
    | .fence _ _ _ _ => some 0 | .drain _ _ _ => some 0 | .drainRel _ _ _ => some 0
    | .flush _ _ _ _ _ => some 0 | .bpref _ _ _ _ _ => some 0 | .pref _ _ _ _ _ => some 0
    | .st _ => (match mform i with | some f => if fixedMem i f then none else some 0 | none => none)
    | .stb _ => (match mform i with | some f => if fixedMem i f then none else some 0 | none => none)
    | .stX _ => some 0
    | .stt _ => none
    | _ => match mform i with
      | some f => if fixedMem i f then none else some (if f.data.isV && f.size == 8 then 2 else if f.data.isZero then 0 else 1)
      | none => none
/-- The bounds of DET on operations and result units in flight (R183). -/
def detFits (c : Core) (w : Wave) (b : Bundle) : Bool :=
  let mine := c.ops.filter (fun o => o.uid == w.uid && o.padded && o.kind != .acqPart)
  let new := [b.v, b.m].filterMap varUnits
  decide (mine.length + new.length ≤ 16) &&
  decide (mine.foldl (fun a o => a + unitsOf o.kind.dest) 0 + new.foldl (fun a n => a + n) 0 ≤ 8)
/-- A RECV outside DET waits for its message, while its peer can be reached (R380, R386). -/
def State.recvFits (s : State) (core : Nat) (w : Wave) (sp : Split) (b : Bundle) : Bool :=
  match b.m with
  | .recv o =>
    let d := (scalarData (s.core core) w o.data).toNat
    s.isDet core || active w sp o.p == 0#64 || s.msgReady (bitsNat d 0 10) (bitsNat d 16 6) s.nextId || !(s.canReach core (bitsNat d 0 10))
  | _ => true
/-- A wave's accesses have all performed. -/
def quiet (c : Core) (uid next : Nat) : Bool := !(earlierOpen c.ops uid next true)
/-- ERET issues when every count raised and every result produced in trap mode has landed (R190). -/
def eretReady (c : Core) (w : Wave) : Bool :=
  !(c.ops.any (fun o => o.uid == w.uid && o.handler)) && w.splits.all (fun e => e.2.win.all (·.arrived)) && w.drain.isEmpty
/-- C-slot operations that wait for other reasons: releases to the companion and launches wait for the wave's earlier
accesses, LAUNCH for room among 16 grids, NODE for the stream's grids, ERET for the handler (R190, R315, R317, R371). -/
def State.ctlFits (s : State) (core : Nat) (w : Wave) (sp : Split) (b : Bundle) : Bool :=
  let c := s.core core
  let may := w.priv || isCmdCore core
  let inFlight := match s.partOf core with | some p => (s.grids.filter (fun g => g.part == p.num)).length | none => 0
  match b.c with
  | .sets p n _ => n != 0x108#12 || active w sp p == 0#64 || quiet c w.uid s.nextId
  | .launch _ => !may || (decide (inFlight < 16) && quiet c w.uid s.nextId)
  | .node _ => !(isCmdCore core) || inFlight == 0
  | .eretReplay => !w.inTrap || eretReady c w
  | _ => true
/-- In carried execution every earlier op of the split has fully completed (R80). -/
def carriedDone (c : Core) (w : Wave) (n : Nat) (sp : Split) : Bool :=
  sp.win.all (·.arrived) && w.drain.isEmpty &&
  !(c.ops.any (fun o => o.uid == w.uid && o.split == n && !o.handler && some o.id != sp.gatherOp))
/-- No gap, barrier or hold keeps a split. -/
def Split.open (sp : Split) : Bool := sp.gap == 0 && sp.bar.isNone && sp.hold.isNone
/-- Results more than eight bundles old leave the window at an issue, before its bundle reads (R53); in carried execution all have
left as they were issued (R63, R80). -/
def State.exitWin (s : State) (core wslot n : Nat) : State :=
  let isn := ((s.wave core wslot).split n).isn
  s.leaveWin core wslot n (fun r => decide (r.isn + 9 ≤ isn))
/-- Whether a split is ready with what its fetch found (R176); scalars are read as they stand at the issue (R53, R134). -/
def State.ready (s : State) (core wslot n : Nat) (f : Fetched) : Bool :=
  let s := s.exitWin core wslot n
  let c := s.core core
  let w := s.wave core wslot
  let sp := w.split n
  sp.open && (!w.carriedNow || carriedDone c w n sp) &&
  (match f with
    | .miss _ => true
    | .trap _ => true
    | .ok b =>
      s.waitMet core w b && queuesFit c b && flagsFit w sp b && s.engineFits core w sp b && s.recvFits core w sp b &&
      s.ctlFits core w sp b && ((b.m == .nop && b.x == .nop) || !(fenceHolds c.ops w.uid)) && releaseFits c w sp b s.nextId &&
      (!(s.isDet core) || detFits c w b) &&
      ((s.isDet core && w.inTrap) || !((c.others wslot n).meets (s.usage core w sp b))))

/-! ### The boundary: stacks, merges, pending traps -/

/-- The lanes a split owns: its mask and those its stack keeps. -/
def Split.owned (sp : Split) : Lanes := sp.stack.foldl (fun m e => m ||| e.mask) sp.mask
/-- Latch rings of two merging splits: each lane's value is its owner's; a scalar value the two do not share is free to read
(assumptions 8 and 12). -/
def mergeRing (a b : NMap Latch) (lanesA lanesB : Lanes) : NMap Latch :=
  let own := fun (ls : Lanes) (l : Latch) => if l.scalar then { l with vals := [] }
    else { l with vals := l.vals.filter (fun x => ls.getLsbD x.1) }
  let put := fun (m : NMap Latch) (e : Nat × Latch) => NMap.put m e.1 e.2
  (a.keys ++ b.keys).eraseDups.foldl (fun m k =>
    match NMap.get? a k, NMap.get? b k with
    | some x, some y =>
      if x = y then put m (k, x)
      else if x.scalar || y.scalar then m
      else put m (k, { x with vals := (own lanesB y).vals.foldl (fun v e => NMap.put v e.1 e.2) (own lanesA x).vals })
    | some x, none => put m (k, own lanesA x)
    | none, some y => put m (k, own lanesB y)
    | none, none => m) []
/-- Whether two splits merge (R62). Splits at one PC stay apart as well while one is held for a translation or a fetch, has lanes
sent before a trap, or stands at another place of an expansion (DEDUCED, assumption 12). -/
def canMerge (a b : Split) : Bool :=
  a.pc == b.pc && a.hold.isNone && b.hold.isNone && a.gather == 0#64 && b.gather == 0#64 && a.mpc == b.mpc &&
  decide (a.stack.length + b.stack.length ≤ 8) && a.nest == b.nest &&
  (match a.bar, b.bar with
    | none, none => true
    | some x, none => x.opened
    | none, some y => y.opened
    | some x, some y => x.key == y.key && x.phase == y.phase)
def laterBar (a b : Option BarWait) : Option BarWait :=
  match a, b with
  | some x, some y => some (if x.rel.getD 0 < y.rel.getD 0 then y else x)
  | some x, none => some x
  | none, y => y
/-- Two splits become one (R62). A BKPT that ERET lets pass once still passes after the merge (DESIGN CHOICE, assumption 88: R144 names no
merge). Assumption 12. -/
def State.merge (s : State) (core wslot lo hi : Nat) : State :=
  let s := (s.drainWin core wslot lo).drainWin core wslot hi
  let uid := (s.wave core wslot).uid
  let s := s.updCore core (fun c => { c with ops := c.ops.map (fun o : VarOp =>
    if o.uid = uid ∧ o.split = hi ∧ o.handler = false then { o with split := lo } else o) }.renamed (wslot, hi) (wslot, lo))
  s.updWave core wslot (fun w =>
    let a := w.split lo
    let b := w.split hi
    let old := if a.age ≤ b.age then a else b
    let new := if a.age ≤ b.age then b else a
    let m : Split := { old with
      num := lo, mask := a.mask ||| b.mask, gap := Nat.max a.gap b.gap, isn := 0, stack := new.stack ++ old.stack, win := (a.restart).win ++ (b.restart).win,
      latV := mergeRing old.latV new.latV old.owned new.owned, latM := mergeRing old.latM new.latM old.owned new.owned, claims := a.claims.max b.claims,
      bar := laterBar a.bar b.bar, bkptOnce := a.bkptOnce || b.bkptOnce,
      deferred := (b.deferred.foldl (fun x d => x.defer d) a).deferred }
    { w with splits := NMap.put (NMap.del w.splits hi) lo m })
/-- Successive pairwise merges in ascending split number. -/
def State.mergeAll (s : State) (core wslot : Nat) : State :=
  ([(0, 1), (0, 2), (0, 3), (1, 2), (1, 3), (2, 3)] : List (Nat × Nat)).foldl (fun s x =>
    let w := s.wave core wslot
    match NMap.get? w.splits x.1, NMap.get? w.splits x.2 with
    | some a, some b => if canMerge a b then s.merge core wslot x.1 x.2 else s
    | _, _ => s) s
/-- Stack transitions of a wave's splits (R61). -/
def State.settleWave (s : State) (core wslot : Nat) : State :=
  s.updWave core wslot (fun w => { w with splits := w.splits.map (fun e => (e.1, if e.2.hold.isNone then e.2.settle 20 else e.2)) })
/-- The trap pending at a split's boundary: the oldest deferred one, then TRAPN (R187). A deferred trap belongs to no slot of the bundle it
is taken at: its slot field reads 0 (DESIGN CHOICE, assumption 64). -/
def Split.pending (sp : Split) : Option (TrapInfo × Split) :=
  if sp.hold.isSome then none
  else match sp.deferred with
    | d :: r => some ({ TrapInfo.at (if d.setflt then .setflt else .memerr) 0 sp.pc with
        deferred := true, fpc := d.pc, addr := d.addr, info := 2 ^ 16 * d.member, lanes := d.lanes, retired := true }, { sp with deferred := r })
    | [] => match sp.trapn with
      | some n => some ({ TrapInfo.at .trapn 4 sp.pc with arg := n, retired := true }, { sp with trapn := none })
      | none => none
/-- At most one pending trap of a wave is taken. -/
def State.pendingTrap (s : State) (core wslot : Nat) : State :=
  match ((s.wave core wslot).splits.find? (fun e => e.2.pending.isSome)).bind (fun e => e.2.pending.map (fun p => (e.1, p))) with
  | some (n, t, sp) => (s.updWave core wslot (fun w => { w with splits := NMap.put w.splits n sp })).takeTrap core wslot n t
  | none => s
/-- A hold of the core that counts in this issue cycle: one that came between two cycles of its cluster counts from the next one's issue (R194). -/
def Core.held (c : Core) : Bool := c.hold && c.sync != .behind
/-- A core-wide hold of a DET core (R185). -/
def State.frozen (s : State) (core : Nat) : Bool :=
  let c := s.core core
  c.held || (s.isDet core && (c.overrun || c.waves.any (fun e => e.2.trap.isSome || e.2.splits.any (fun x => x.2.hold.isSome))))
/-- Under a hold taken for trap mode, or for a save, the handler alone goes on (R185, R194). -/
def State.handlerRuns (s : State) (core : Nat) : Bool :=
  let c := s.core core
  (!c.hold || c.waves.any (fun e => e.2.trap.isSome)) && !c.overrun
def Wave.halted (w : Wave) (frozen : Bool) : Bool := frozen && !w.inTrap
/-- Every wave of a core comes to its boundary: a pending trap is taken there ahead of a stack transition, so the PC it
saves is the successor of the bundle that raised it (R144, R187). -/
def State.boundary (s : State) (core : Nat) : State :=
  if s.frozen core && !(s.handlerRuns core) then s
  else (s.core core).waves.keys.foldl (fun s k =>
    if (s.wave core k).halted (s.frozen core) then s else (s.pendingTrap core k).settleWave core k) s

/-! ### Selection (R177, R178) -/

/-- Live splits in the order of the rotation list. -/
def Core.live (c : Core) : List (Nat × Nat) := c.waves.flatMap (fun e => e.2.splits.keys.map (fun n => (e.1, n)))
def pairLt (a b : Nat × Nat) : Bool := decide (a.1 < b.1) || (a.1 == b.1 && decide (a.2 < b.2))
/-- The split under the pointer: the first live one after the place last served. -/
def Core.pointer (c : Core) : Option (Nat × Nat) :=
  match c.rot with
  | none => c.live.head?
  | some r => match c.live.find? (fun x => pairLt r x) with | some x => some x | none => c.live.head?
def State.readyAt (s : State) (core : Nat) (x : Nat × Nat) : Bool := s.ready core x.1 x.2 (s.fetch core x.1 x.2)
/-- A split held back by YIELD is no candidate (R141). -/
def Split.yields (sp : Split) : Bool := match sp.yield with | some y => !y.others.isEmpty && y.left != 0 | none => false
/-- Ready splits of a core that are candidates. -/
def State.candidates (s : State) (core : Nat) : List (Nat × Nat) :=
  (s.core core).live.filter (fun x => !((s.wave core x.1).halted (s.frozen core)) && s.readyAt core x)
def State.scoreOf (s : State) (core : Nat) (x : Nat × Nat) : Nat :=
  let w := (s.exitWin core x.1 x.2).wave core x.1
  match s.fetch core x.1 x.2 with
  | .ok b => score (s.core core).ages (s.usage core w (w.split x.2) b)
  | _ => 2 ^ 64
/-- Order of selection: higher score, then lower wave slot, then older split. -/
def State.better (s : State) (core : Nat) (x y : Nat × Nat) : Bool :=
  let a := s.scoreOf core x
  let b := s.scoreOf core y
  decide (b < a) || (a == b && (decide (x.1 < y.1) || (x.1 == y.1 && decide (((s.wave core x.1).split x.2).age < ((s.wave core y.1).split y.2).age))))
/-- A held bundle of the wave has gone on in this cycle: what its C slot wrote lands at the cycle's end, so no other split of the wave issues
in it (R125; assumption 24). -/
def State.doneHere (s : State) (core wslot : Nat) : Bool := match s.cursor with | some k => k.done.contains (core, wslot) | none => false
/-- The split a core issues from in this ic. -/
def State.pick (s : State) (core : Nat) : Option (Nat × Nat) :=
  if s.frozen core then
    (if s.handlerRuns core then (s.candidates core).find? (fun x => (s.wave core x.1).inTrap && !(s.doneHere core x.1)) else none)
  else if s.isDet core then
    match (s.core core).pointer with
    | some x => if s.readyAt core x then some x else none
    | none => none
  else
    ((s.candidates core).filter (fun x => !((s.wave core x.1).split x.2).yields && !(s.doneHere core x.1))).foldl (fun best x =>
      match best with
      | none => some x
      | some y => if s.better core x y then some x else best) none
/-- After each ic outside a hold the pointer leaves the place it served (R178). -/
def State.turn (s : State) (core : Nat) (at' : Option (Nat × Nat)) : State :=
  if s.isDet core && !(s.frozen core) then s.updCore core (fun c => { c with rot := match at' with | some x => some x | none => c.rot })
  else s

/-! ### Traps found as a bundle issues (R187) -/

/-- C-slot operations a nest body may hold (R132). -/
def bodyOk (i : Instr) : Bool :=
  match i with
  | .nop => true | .wflg _ => true | .twany _ => true | .twall _ => true | .tffr _ _ => true | .tclr _ _ => true | .bar _ => true
  | .gets _ _ _ => true | .sets _ _ _ => true | _ => false
def Nest.inBody (x : Nest) (pc : Nat) : Bool := decide (x.pc < pc) && decide (pc ≤ x.pc + x.n)
/-- LAUNCH and NODE outside their contexts trap with PRIV (R143). -/
def launchBad (i : Issue) : Option TrapInfo := if isCmdCore i.core || i.pre.priv then none else some (i.fault .priv 4)
def nodeBad (i : Issue) : Option TrapInfo := if isCmdCore i.core then none else some (i.fault .priv 4)
/-- The trap a slot operation raises at issue. -/
def State.slotTrap (s : State) (i : Issue) (ins : Instr) : Option TrapInfo :=
  match ins with
  | .fdiv _ _ _ f => i.flagTrap f 1
  | .ldset o => s.ldsetBad i o
  | .fence _ _ _ f => i.flagTrap f 2
  | .drain p d f => s.drainBad i p d f
  | .drainRel p d f => s.drainBad i p d f
  | .flush _ _ _ _ f => i.flagTrap f 2
  | .bpref _ _ _ _ f => i.flagTrap f 2
  | .pref _ _ _ _ f => i.flagTrap f 2
  | .send o => s.msgBad i o .rd
  | .recv o => s.msgBad i o .wr
  | .cpy o => s.copyBad i .cpy o
  | .cpyq o => s.copyBad i .cpyq o
  | .cpyo o => s.copyBad i .cpyo o
  | .cpyr o => s.copyBad i .cpyr o
  | .coll o => s.collBad i o
  | .mxq o => s.mxqBad i o
  | .mxrd o n => s.sideBad i o .rd (n.toNat + 1)
  | .mxwr o n => s.sideBad i o .wr (n.toNat + 1)
  | .mxz o => s.sideBad i o .z 0
  | .mxcrd o => s.sideBad i o .crd 0
  | .mxcwr o => s.sideBad i o .cwr 0
  | .brv p neg pc _ _ => brvBad i p neg pc
  | .nest n _ d _ => s.nestBad i n d
  | .twany n => s.zeroMask i n
  | .tffr _ n => s.zeroMask i n
  | .sbar n => s.sbarBad i n
  | .gets p _ n => if i.act p = 0#64 then none else sysBad i n.toNat false
  | .sets p n src => if i.act p = 0#64 then none else s.setsBad i n.toNat src
  | .eretReplay => eretBad i
  | .launch _ => launchBad i
  | .node _ => nodeBad i
  | _ => match mform ins, ins.fsel with
    | some f, some (x, _) => s.memTrap i f x
    | _, _ => none
/-- The place of an engine claim a bundle meets: 1 V, 2 M, 3 X. -/
def claimSlot (a u : Claims) : Nat := if (a.v != 0 && u.v != 0) || (a.sfu != 0 && u.sfu != 0) then 1 else if a.m != 0 && u.m != 0 then 2 else 3
/-- Some active lane of the bundle's M slot has no translation: the bundle is held (R160). Assumption 25. -/
def State.issueHeld (s : State) (i : Issue) : Bool :=
  match mform i.bundle.m with | some f => s.missing i.core i.pre i.sp f != 0#64 | none => false
/-- The first trap of a bundle after decode, in the order of R187: a translation of the M slot comes before the traps of X
and C. Assumption 25. -/
def State.issueTrap (s : State) (i : Issue) : Option TrapInfo :=
  let b := i.bundle
  let sp := i.sp
  let far := fun (x : Instr) => (latchRefs x).any (fun r => decide (sp.isn < r.2.1))
  let u := s.usage i.core i.pre sp b
  let body := match sp.nest with | some x => x.inBody sp.pc && !(bodyOk b.c) | none => false
  if far b.v then some (i.fault .schedf 1)
  else if far b.m then some (i.fault .schedf 2)
  else if !i.pre.carriedNow && sp.claims.meets u then some (i.fault .schedf (claimSlot sp.claims u))
  else if (match b.c with | .bkpt p => i.act p != 0#64 | _ => false) then some (i.fault .bkpt 4)
  else match s.slotTrap i b.v with
    | some t => some t
    | none => match s.slotTrap i b.m with
      | some t => some t
      | none => if s.issueHeld i then none else match s.slotTrap i b.x with
        | some t => some t
        | none => match s.slotTrap i b.c with
          | some t => some (if body && t.cause != .priv then i.fault .illop 4 else t)
          | none => if body then some (i.fault .illop 4) else none

/-! ### The stage -/

/-- The bundle being executed, with the state its operands are read from. -/
def State.mkIssue (s : State) (core wslot n : Nat) (b : Bundle) : Issue :=
  let w := s.wave core wslot
  let sp := w.split n
  let b := if sp.bkptOnce then { b with c := .nop } else b
  let f := bundleFlags sp b
  { core := core, wave := wslot, split := n, bundle := b, isn := sp.isn, pre := w, tags := (s.core core).tags,
    tagerr := (s.core core).tagerr, pen := if w.carriedNow then 0 else bundlePenalty w b, fa := f.1, fb := f.2, gather := sp.gather,
    gatherOp := sp.gatherOp, inMacro := sp.mpc.isSome }
/-- A last-read mark makes the named result dead (R53, R55). -/
def Split.dropMarked (sp : Split) (isn : Nat) (refs : List (Bool × Nat × Bool)) : Split :=
  { sp with win := sp.win.map (fun r =>
      if !r.old && refs.any (fun x => x.2.2 && x.1 == r.mem && r.isn + x.2.1 == isn) then { r with live := 0#64 } else r) }
def isMacro : Instr → Bool | .macroOp _ _ _ => true | _ => false
def isYield : Instr → Bool | .yield => true | _ => false
/-- The split's own bookkeeping at retirement: PC, ISN, gap, claims, marks (R51, R55, R66, R181); the micro PC advances in
an expansion (R146). -/
def Split.advance (sp : Split) (b : Bundle) (u : Claims) (len : Nat) : Split :=
  let sp := sp.dropMarked sp.isn (latchRefs b.v ++ latchRefs b.m)
  let sp := { sp with isn := sp.isn + 1, gap := b.gap.toNat + 1, claims := sp.claims.add u, bkptOnce := false,
                      gather := 0#64, gatherOp := none }
  match sp.mpc with
  | some m => if m % rngMark + 1 < len then { sp with mpc := some (m + 1) } else { sp with mpc := none, pc := (sp.pc + 1) % 2 ^ 64 }
  | none => if isMacro b.c then sp else { sp with pc := (sp.pc + 1) % 2 ^ 64 }
/-- The retirement of a bundle, ahead of the effects of its slots. -/
def State.retire (s : State) (i : Issue) : State :=
  let u := s.usage i.core i.pre i.sp i.bundle
  let len := match i.sp.mpc, s.rawUnit i.core i.pre i.sp with | some _, some x => s.macroLen x | _, _ => 0
  let ends := match i.sp.mpc with | some m => decide (len ≤ m % rngMark + 1) | none => !(isMacro i.bundle.c)
  let drew := match i.sp.mpc with | some m => ends && decide (rngMark ≤ m) | none => false
  let others := if isYield i.bundle.c && !(s.isDet i.core) then (s.candidates i.core).filter (· != (i.wave, i.split)) else []
  let run := s.nativeAt i.core i.pre i.sp
  let s := s.updIss i (fun w =>
    let w := w.updSplit i.split (fun sp =>
      let sp := sp.advance i.bundle u len
      let sp := { sp with nat := run }
      if isYield i.bundle.c then { sp with yield := some { others := others, left := 64 } } else sp)
    { w with retc := if w.inTrap || !ends then w.retc else w.retc + 1, rngidx := if drew then w.rngidx + 1 else w.rngidx })
  let s := s.updCore i.core (fun c => { c with ages :=
    { v := if u.v = 0 then c.ages.v else 0, sfu := if u.sfu = 0 then c.ages.sfu else 0, m := if u.m = 0 then c.ages.m else 0,
      x := if u.x = 0 then c.ages.x else 0 } })
  s.nestNext i
/-- A split's bundle at its issue: it traps, or its fetch begins a walk, or it is staged for its slots to act; a bundle
held for a translation is staged without retiring (R160, R175, R295). -/
def State.issueSplit (s : State) (core wslot n : Nat) : State :=
  let s := s.updCore core (fun c => c.served (wslot, n))
  match s.fetch core wslot n with
  | .miss va => { s with fresh := s.fresh + 1 }.updWave core wslot (fun w => w.updSplit n (fun sp =>
      { sp with hold := some { fetch := true, gather := sp.gather, op := none, walks := s.walksFor core [va] s.fresh } }))
  | .trap t => s.takeTrap core wslot n t
  | .ok b =>
    let s1 := s.exitWin core wslot n
    let i := s1.mkIssue core wslot n b
    match s1.issueTrap i with
    | some t => s.takeTrap core wslot n t
    | none => if s1.issueHeld i then { s with issue := some i } else { s1.retire i with issue := some i }

/-- The pointer turns after an issue; a held or trapped bundle keeps its place for its completion or replay (R178, R185). -/
def State.turnIssued (s : State) (core : Nat) (at' : Option (Nat × Nat)) : State :=
  if (match s.issue with | some i => s.isDet core && s.issueHeld i | none => s.frozen core) then s else s.turn core at'
/-- Every walk of a held access has returned (R160). -/
def XHold.returned (h : XHold) : Bool := !h.fetch && h.walks.isEmpty
def State.unhold (s : State) (core wslot n : Nat) : State := s.updWave core wslot (fun w => w.updSplit n (fun sp => { sp with hold := none }))
/-- A held bundle whose walks have returned sends what it can, or completes its issue if the wait it passed still holds, and the queues, counts,
engine entries and tags it needs are still there: another wave may have cleared or taken them in the meantime (R58, R134, R233, R239, R245;
assumption 24). Its own lanes that were sent before do not count as earlier accesses. -/
def State.heldFits (s : State) (core wslot n : Nat) : Bool :=
  let s := (s.unhold core wslot n).exitWin core wslot n
  let c := s.core core
  let w := s.wave core wslot
  let sp := w.split n
  match s.fetch core wslot n with
  | .ok b => s.issueHeld (s.mkIssue core wslot n b) || (s.waitMet core w b && queuesFit c b && flagsFit w sp b && s.engineFits core w sp b &&
    (s.updCore core (fun c => { c with ops := c.ops.filter (fun o => some o.id != sp.gatherOp) })).ctlFits core w sp b)
  | _ => true
/-- The held split a core completes next. While a save or an overrun holds the core none does: the bundle completes after it (R185, R194). -/
def State.completing (s : State) (core : Nat) : Option (Nat × Nat) :=
  let c := s.core core
  (c.live.filter (fun x => ((!c.held && !c.overrun) || (s.wave core x.1).inTrap) && !(s.doneHere core x.1))).find? (fun x =>
    match ((s.wave core x.1).split x.2).hold with | some h => h.returned && s.heldFits core x.1 x.2 | none => false)
/-- A held bundle goes on at its core's place in the issue cycle. Under DET it completes in the place of its own cycle and the core issues no
other; outside DET the core then selects as in any cycle, from the splits of its other waves (R125, R160, R178). Assumption 24. -/
def State.completeHeld (s : State) (core : Nat) (x : Nat × Nat) : State :=
  let t := ((s.unhold core x.1 x.2).issueSplit core x.1 x.2).turnIssued core (some x)
  if s.isDet core then t
  else { t with cursor := t.cursor.map (fun k : Cursor => { k with nextCore := k.nextCore - 1, done := (core, x.1) :: k.done }) }
/-- A selected split's wave merges its splits (R62); what was selected goes on in the split that holds its lanes. Assumption 12. -/
def State.mergedAt (s : State) (core wslot n : Nat) : State × Nat :=
  let m := ((s.wave core wslot).split n).mask
  let t := s.mergeAll core wslot
  (t, (((t.wave core wslot).splits.find? (fun e => e.2.mask &&& m != 0#64)).map (·.1)).getD n)
/-- The core's issue in an ic, native or carried (R80, R176). The wave for which it selects a bundle merges its splits first; a merged
split issues if it is still ready (R62). -/
def State.issueCore (s : State) (core : Nat) (carried : Bool) : State :=
  match s.completing core with
  | some x => if (s.wave core x.1).carriedNow = carried then s.completeHeld core x else s
  | none =>
  let s' := s.boundary core
  let at' := (s'.core core).pointer
  match s'.pick core with
  | none => s'.turn core at'
  | some x =>
    if (s'.wave core x.1).carriedNow = carried then
      let r := s'.mergedAt core x.1 x.2
      if r.1.readyAt core (x.1, r.2) then (r.1.issueSplit core x.1 r.2).turnIssued core at' else r.1.turn core at'
    else s
/-- The split a core would issue from is in carried execution. -/
def State.picksCarried (s : State) (core : Nat) : Bool :=
  match s.completing core with
  | some x => (s.wave core x.1).carriedNow
  | none =>
  let s := s.boundary core
  match s.pick core with | some x => (s.wave core x.1).carriedNow | none => false
/-- The core selects a ready split and stages its next bundle (R176 to R178). -/
def execBundleIssue (core : Nat) (s : State) : Out :=
  if validCore core then .next (s.issueCore core false) else .fault .noSuchUnit
/-- The front end stages the next Beyrum op of a carried split (R78 to R80, R332). -/
def execCarriedOpIssue (core : Nat) (s : State) : Out :=
  if validCore core then .next (s.issueCore core true) else .fault .noSuchUnit
/-- MACRO: its expansion begins; an empty one is complete (R146). -/
def execMacroOp (_p : Pred) (n : BitVec 6) (fields : BitVec 46) (s : State) : Out :=
  s.cOp (fun i =>
    if (s.expansion 65 [] n.toNat fields.toNat).isEmpty then
      s.updIss i (fun w => { (w.updSplit i.split (fun sp => { sp with pc := (sp.pc + 1) % 2 ^ 64 })) with retc := w.retc + 1 })
    else s.updIssSplit i (fun sp => { sp with mpc := some 0 }))

/-! ### Other events of the front end -/

/-- The handler of a frozen wave starts: the freeze writes have performed, no other handler of the core runs, and it is
the first in the order of traps, then of slots (R188). -/
def execHandlerStart (core wave : Nat) (s : State) : Out :=
  .next (match (s.wave core wave).trap with
    | none => s
    | some t =>
      let ws := (s.core core).waves
      let first := !(ws.any (fun e => match e.2.trap with
        | some u => u.started || decide (u.order < t.order) || (u.order == t.order && decide (e.1 < wave))
        | none => false))
      if t.started || t.startRem != 0 || !first then s else s.startHandler core wave)
/-- An uncorrectable error in what a scratchpad load in flight reads: the lanes land nowhere, and the split's MEMERR is deferred (R161). -/
def State.loadError (s : State) (core wave id : Nat) (err : Lanes) : State :=
  s.updWave core wave (fun w => { w with
    splits := w.splits.map (fun e => (e.1,
    match e.2.win.find? (fun r => r.id == id && r.mem && !r.arrived && (r.mask &&& err) != 0#64) with
    | none => e.2
    | some r =>
      let bad := if r.scalar then 1#64 else r.mask &&& err
      { e.2 with win := e.2.win.map (fun x : FRes => if x.id = id then { x with mask := x.mask &&& ~~~ bad, live := x.live &&& ~~~ bad } else x) }.defer
        (Deferred.mk false r.pc (NMap.getD r.vas 0 ((lanesOf bad).headD 0)) bad 0 id))),
    drain := w.drain.map (fun x : FRes => if x.id = id ∧ x.mem then { x with live := x.live &&& ~~~ (if x.scalar then 1#64 else err) } else x) })
/-- A result of fixed latency arrives: in its latch, and in the bank if it has left the window (R51, R53, R54). Assumption 38. -/
def execResultArrival (core wave : Nat) (x : Landing) (s : State) : Out :=
  .next (
    let s := if x.err = 0#64 then s else (s.countUce (clusterOf core)).loadError core wave x.id x.err
    let w := s.wave core wave
    let due := fun (r : FRes) => r.id == x.id && r.rem == 0 && !r.arrived
    match w.splits.find? (fun e => e.2.win.any due) with
    | some (n, sp) =>
      (match sp.win.find? due with
        | some r =>
          let s := s.arrive core wave n r
          let s := if r.out then s.bank core wave r.dest r.live r.id r.vals else s
          s.updWave core wave (fun w => w.updSplit n (fun sp =>
            let rest := if r.out then sp.win.filter (fun r => r.id != x.id) else sp.win.map (fun r : FRes => if r.id = x.id then { r with arrived := true } else r)
            { sp with win := rest }))
        | none => s)
    | none =>
      match w.drain.find? due with
      | some r => ((s.arrive core wave 4 r).bank core wave r.dest r.live r.id r.vals).updWave core wave (fun w =>
          { w with drain := w.drain.filter (fun r => r.id != x.id) })
      | none => s)

/-- The access a held bundle makes: a fetch, or what its M slot needs. Assumption 24. -/
def State.heldForm (s : State) (core wave split : Nat) : Option MForm :=
  match s.fetch core wave split with | .ok b => mform b.m | _ => none
/-- The lanes of a held access that stand on a page, with the address of the lowest. -/
def State.pageLanes (s : State) (core wave split : Nat) (f : MForm) (va : Nat) : Lanes × Nat :=
  let w := (s.exitWin core wave split).wave core wave
  let sp := w.split split
  let addr := fun l => ((f.addr (s.core core) w sp l) % 2 ^ 64).toNat
  let m := laneMask (fun l => (f.lanes w sp).getLsbD l && !(sp.gather.getLsbD l) && addr l / 65536 == va / 65536)
  (m, addr ((lanesOf m).headD 0))
/-- A translation joins the micro-TLB (R293). -/
def State.fillTlb (s : State) (core : Nat) (e : TlbEnt) : State :=
  { s.updCore core (fun c => c.fillUtlb e s.fresh) with fresh := s.fresh + 1 }
/-- A walk returns: its page's translation lets the bundle complete its issue when no lane is left, a fault traps it with
XLATE, an error in an entry is a MEMERR of its lanes (R160, R161, R295). The cluster's TLB is looked in first (R293). The bundle goes on at
its core's place in the cycle. -/
def execTranslationWalkReturn (core wave split : Nat) (s : State) : Out :=
  .next (
    let sp := (s.wave core wave).split split
    match sp.hold, s.partOf core with
    | some h, some p =>
      (match h.walks.find? (fun w => w.rem == 0) with
        | none => s
        | some k =>
          let free := s.unhold core wave split
          let goesOn := fun (t : State) => t.updWave core wave (fun w => w.updSplit split (fun sp => { sp with hold := some { h with walks := [] } }))
          if h.fetch then
            (match free.engXlat core p k.va .fetch with
              | (.ok _ e, t) => t.fillTlb core e
              | (.fault kind, t) => t.takeTrap core wave split { TrapInfo.at .xlate 0 sp.pc with addr := k.va, info := kind, lanes := sp.gather }
              | (.err, t) => t.takeTrap core wave split { TrapInfo.at .memerr 0 sp.pc with addr := k.va })
          else match free.heldForm core wave split with
            | none => free
            | some f =>
              let l := free.pageLanes core wave split f k.va
              (match free.engXlat core p l.2 f.acc with
                | (.ok _ e, t) => goesOn (t.fillTlb core e)
                | (.fault kind, t) => t.takeTrap core wave split { TrapInfo.at .xlate 2 sp.pc with addr := l.2, info := kind, lanes := sp.gather }
                | (.err, t) => goesOn (t.updWave core wave (fun w => w.updSplit split (fun sp =>
                    { sp with gather := sp.gather ||| l.1 }.defer (Deferred.mk false sp.pc l.2 l.1 0 t.nextId))))))
    | _, _ => s)

/-- Ops after which a basic block ends: a branch may follow them (R333). -/
def endsBlock : Instr → Bool
  | .br _ _ => true | .brc _ _ _ => true | .brv _ _ _ _ _ => true | .jmpi _ _ => true | .call _ _ _ => true | .ret _ _ => true
  | .loop _ _ _ _ => true | .nest _ _ _ _ => true | .exit _ => true | _ => false
/-- Ops of the basic block from a word address on, at most n; none for what does not decode. -/
def State.blockLen (s : State) (p : Part) : Nat → Nat → Nat
  | 0, _ => 0
  | n + 1, pc =>
    match (vaLoad s.mem p (8 * pc) 8).bind decodeWord with
    | none => 0
    | some i => if endsBlock i then 1 else 1 + State.blockLen s p n (pc + 1)
/-- The translator builds native bundles of a basic block in the code cache, if it has room: their bytes are not given, and their effects
are those of the block's ops (R331, R333; assumption 17). -/
def execTranslateBlock (part pc : Nat) (s : State) : Out :=
  .next (match NMap.get? s.parts part with
    | none => s
    | some p =>
      let size := bitsNat p.tcache.toNat 48 16 * 2 ^ 20
      let used := 32 * p.transl.foldl (fun n r => n + r.len) 0
      let at' := bitsNat p.tcache.toNat 16 32 * 65536 + used
      let len := s.blockLen p 4096 pc
      if len = 0 ∨ size < used + 32 * len ∨ p.transl.any (fun r => r.bpc == pc) then s
      else
        { s with fresh := s.fresh + 32 * len, mem := vaStoreBytes p (len + 2) s.mem at' (freeBytes s.fresh (32 * len)) }.updPart part (fun p =>
          { p with transl := p.transl ++ [NatRun.mk pc at' len pc] }))

end Sys2Proof.Machine
end

