-- ==== Sys2Proof/Machine/Barrier.lean ====
section
/-! DEFINITION. Barriers' openings, deadlines and releases (R136, R255, R256) and the failures of a cluster's shared
machinery (R234, R259). -/

namespace Sys2Proof.Machine

/-! ### Participants (R136) -/

/-- Resident waves of a grid that take part in a barrier, with core and slot, in the order of release (R255). -/
def State.barWaves (s : State) (g : Grid) (id : BarId) : List (Nat × Nat × Wave) :=
  g.started.flatMap (fun c => ((s.core c).waves.filter (fun e => g.joins id e.2)).map (fun e => (c, e.1, e.2)))
/-- Waves of blocks saved by quantum scheduling take part too, but for those of a set (R136, R324). -/
def State.barSaved (s : State) (g : Grid) (id : BarId) : List (Nat × Wave) :=
  match id.key with
  | .sbar _ => []
  | _ => g.started.flatMap (fun c => (s.core c).saved.flatMap (fun b => (b.waves.filter (fun e => g.joins id e.2)).map (fun e => (c, e.2))))
/-- No access a wave issued before is open on its core. Assumption 65. -/
def State.accessesDone (s : State) (core uid : Nat) : Bool :=
  !(earlierOpen ((s.core core).ops ++ (s.core core).saved.flatMap (·.ops)) uid s.nextId true)
/-- Waves that took part and have ended, with their cores. -/
def Grid.goneFrom (g : Grid) (id : BarId) : List (Nat × Nat) :=
  (g.gone.filter (fun x => match id.key with
    | .bar _ => x.2.1 == id.who | .gbar _ => x.2.2.1 == id.who | .sbar _ => true)).map (fun x => (x.1, x.2.2.2))
/-- Every participant has arrived, one waits, and every access they issued before has performed. Assumption 57. -/
def State.barReady (s : State) (g : Grid) (id : BarId) : Bool :=
  let ws := s.barWaves g id
  let sv := s.barSaved g id
  let ph := g.opened id
  (ws.any (fun x => x.2.2.own.any (fun e => e.2.waits id.key ph)) || sv.any (fun x => x.2.own.any (fun e => e.2.waits id.key ph))) &&
  ws.all (fun x => x.2.2.arrived id.key ph && s.accessesDone x.1 x.2.2.uid) &&
  sv.all (fun x => x.2.arrived id.key ph && s.accessesDone x.1 x.2.uid) &&
  (g.goneFrom id).all (fun x => s.accessesDone x.2 x.1)

/-! ### Opening -/

/-- Issue cycles after the opening at which release group n goes (R255). -/
def groupDelay (r : Ratio) (slope n : Nat) : Nat := (2 * n * slope + r.halfLc - 1) / r.halfLc
/-- Mark a waiting split as opened, released after some issue cycles more than its own count. Where the opening reaches its cluster between
two issue cycles (`apart`) and its count is over, the opening ic is the next one (R255). -/
def Split.openBar (sp : Split) (key : BarKey) (phase n : Nat) (apart : Bool) : Split :=
  if sp.waits key phase then { sp with bar := sp.bar.map (fun b : BarWait =>
      { b with opened := true, rel := some (b.rel.getD 0 + n + (if apart && b.rel.getD 0 == 0 then 1 else 0)) }) } else sp
def Wave.openBar (w : Wave) (key : BarKey) (phase n : Nat) (apart : Bool) (present : Option (Nat × Nat)) : Wave :=
  let w := match present with | some p => { w with setPhase := NMap.put w.setPhase p.1 p.2 } | none => w
  w.own.keys.foldl (fun w k => w.updOwn k (fun sp => sp.openBar key phase n apart)) w
/-- Members of a set whose block has not exited, as a bitmap (R248). -/
def State.presentBits (s : State) (g : Grid) (set : Nat) : Nat :=
  match NMap.get? s.parts g.part, NMap.get? g.sets set with
  | some p, some l => l.foldl (fun a m => match p.physCore m with | some c => if s.runsOn g c then a ||| 2 ^ m else a | none => a) 0
  | _, _ => 0
/-- The opening reaches a cluster: its waiting waves in order, in groups of W (R255). -/
def State.openAt (s : State) (g : Grid) (id : BarId) (phase bits cluster : Nat) : State :=
  let cl := s.cluster cluster
  let ws := (s.barWaves g id).filter (fun x => x.1 / 8 == cluster && x.2.2.own.any (fun e => e.2.waits id.key phase))
  let delay := if id.key.far && !g.det then Config.freeNat s.fresh else 0
  let present := match id.key with | .sbar n => some (n, bits) | _ => none
  let s := { s with fresh := s.fresh + 1 }
  let s := (List.range ws.length).foldl (fun s k =>
    match ws[k]? with
    | some x => s.updWave x.1 x.2.1 (fun w =>
        w.openBar id.key phase (delay + groupDelay cl.ratio cl.latS (k / Nat.max 1 cl.latW)) (!(s.inCycle cluster)) present)
    | none => s) s
  if g.det && id.key.far then
    (ws.map (·.1)).foldl (fun s c => s.dataHere c) s
  else s
/-- Waves of saved blocks that wait pass the barrier as they stand, those of a set too: they keep their arrival (R136). -/
def Core.openSaved (c : Core) (g : Grid) (id : BarId) (phase : Nat) (present : Option (Nat × Nat)) : Core :=
  { c with saved := c.saved.map (fun b => { b with waves := b.waves.map (fun e =>
      if g.joins id e.2 && e.2.own.any (fun x => x.2.waits id.key phase) then (e.1, e.2.openBar id.key phase 0 false present) else e) }) }
/-- A barrier's phase opens: `key` is the barrier's place in the grid's list (R136, R255). -/
def execBarrierOpen (grid key : Nat) (s : State) : Out :=
  .next (match s.grid? grid with
    | none => s
    | some g =>
      match g.bars[key]? with
      | none => s
      | some b =>
        if !(s.barReady g b.id) then s
        else
          let bits := match b.id.key with | .sbar n => s.presentBits g n | _ => 0
          let s := ((g.started.map (· / 8)).eraseDups).foldl (fun s c => s.openAt g b.id b.phase bits c) s
          let present := match b.id.key with | .sbar n => some (n, bits) | _ => none
          let s := g.started.foldl (fun s c => s.updCore c (fun k => k.openSaved g b.id b.phase present)) s
          s.updGrid grid (fun g => { g with bars := g.bars.map (fun x => if x.id = b.id then { x with phase := x.phase + 1 } else x) }))

/-- The opening ic of a cluster has come for a barrier that has not opened: all its own participants have arrived, the count from the last
arrival has run out and every earlier access of theirs has completed (R256). -/
def State.barDue (s : State) (g : Grid) (b : BarSt) (cluster : Nat) : Bool :=
  let ws := (s.barWaves g b.id).filter (fun x => x.1 / 8 == cluster)
  b.id.key.far && ws.all (fun x => x.2.2.arrived b.id.key b.phase && s.accessesDone x.1 x.2.2.uid &&
    x.2.2.own.all (fun e => match e.2.bar with | some w => w.opened || w.rel == some 0 | none => true))
/-- A core has a wave that waits at a phase whose opening ic has come (R256). -/
def State.barLate (s : State) (g : Grid) (core : Nat) : Bool :=
  g.det && g.bars.any (fun b => s.barDue g b (core / 8) && (s.core core).waves.any (fun e => g.joins b.id e.2 && e.2.own.any (fun x => x.2.waits b.id.key b.phase)))
/-- Under DET the opening ic of a cluster has come and a phase has not opened: its cores with a waiting participant take a core-wide
hold (R256). -/
def execDetOpeningDeadline (cluster grid : Nat) (s : State) : Out :=
  .next (match s.grid? grid with
    | none => s
    | some g => (List.range 8).foldl (fun s k => if s.barLate g (8 * cluster + k) then s.holdOverrun (8 * cluster + k) else s) s)

/-! ### Release -/

/-- The key of the barrier a split is released from now. -/
def Split.released (sp : Split) : Option BarKey :=
  match sp.bar with | some b => if b.opened ∧ b.rel = some 0 then some b.key else none | none => none
/-- The release groups of a cluster whose issue cycle has come go on; a release is an acquire (R136, R255). -/
def execReleaseGroup (cluster : Nat) (s : State) : Out :=
  .next ((List.range 8).foldl (fun s k =>
    let c := 8 * cluster + k
    if (s.core c).waves.any (fun e => e.2.own.any (fun x => x.2.released.isSome)) then
      ((s.core c).waves.keys).foldl (fun s w => s.updWave c w (fun wv => wv.own.keys.foldl (fun v n =>
        v.updOwn n (fun sp => if sp.released.isSome then { sp with bar := none } else sp)) wv)) (s.acquire c)
    else s) s)

/-! ### Failures (R234, R259) -/

/-- Every wave of a grid has ended. -/
def Grid.wavesDone (g : Grid) : Bool := (g.killed || decide (g.nblocks ≤ g.next)) && g.blocks.isEmpty
/-- The tags uncompleted operations of a core produce for a grid, but for the operation `id`: none sets the tag it waits on itself. -/
def State.producing (s : State) (core grid id : Nat) : List Nat :=
  let cl := s.cluster (clusterOf core)
  (cl.copies.filter (fun x => x.core == core && x.grid == grid && x.id != id)).map (·.ptag) ++
  (cl.tasks.filter (fun x => x.core == core && x.grid == grid && x.id != id)).map (·.ptag) ++
  (cl.sides.filter (fun x => x.core == core && x.grid == grid && x.id != id)).map (·.ptag) ++
  (cl.empties.filter (fun x => x.core == core && x.grid == grid && x.id != id)).map (·.ptag) ++
  (s.core core).ops.filterMap (fun o => match o.kind with | .bpref t _ => if o.grid = grid then some t else none | _ => none)
/-- An operation waits on tags, none of which will come (R234). -/
def State.orphaned (s : State) (core grid id : Nat) (ct : List Nat) : Bool :=
  let wait := ct.filter (fun t => !((s.core core).tags.getLsbD t))
  (match s.grid? grid with | some g => g.wavesDone | none => false) && !wait.isEmpty && !(wait.any (fun t => (s.producing core grid id).contains t))
/-- An orphaned engine operation is discarded: its record is written, its tag set with TAGERR, and its grid reports
ENGORPHAN (R234, R316). Assumption 36. One without an active lane writes no record (DESIGN CHOICE, assumption 106). -/
def execEngineOrphan (cluster id : Nat) (s : State) : Out :=
  let cl := s.cluster cluster
  .next (match cl.copies.find? (fun c => c.id == id) with
    | some c => if !c.started && s.orphaned c.core c.grid c.id c.waits then (s.copyFail cluster c ⟨8, 0, 0⟩).gridErr c.grid 0x13 else s
    | none => match cl.tasks.find? (fun t => t.id == id) with
      | some t => if t.arr.isNone && s.orphaned t.core t.grid t.id t.waits then (s.taskFail cluster t ⟨4, 0, 0⟩).gridErr t.grid 0x13 else s
      | none => match cl.sides.find? (fun o => o.id == id) with
        | some o =>
          if !o.started && s.orphaned o.core o.grid o.id o.waits then
            let arr := if cl.paired then o.core % 8 / 2 else NMap.getD cl.bind 0 (bitsNat o.desc.toNat 16 3 / 2)
            let s := s.writeRecord o.core o.grid (32 * o.ptag) [BitVec.ofNat 64 (2 ^ 17 * arr + 2 ^ 11 * o.ptag + 4), 0#64, 0#64, 0#64]
            ((s.updCluster cluster (fun cl => { cl with sides := cl.sides.filter (fun x => x.id != id) })).setTag o.core o.ptag true).gridErr o.grid 0x13
          else s
        | none => match cl.empties.find? (fun o => o.id == id) with
          | some o =>
            if o.rem.isNone && s.orphaned o.core o.grid o.id o.waits then
              ((s.updCluster cluster (fun cl => { cl with empties := cl.empties.filter (fun x => x.id != id) })).setTag o.core o.ptag true).gridErr o.grid 0x13
            else s
          | none => s)
/-- An uncorrectable error in a copy queue or task queue record: that operation ends with cause 5 (R259). -/
def execQueueRecordError (cluster : Nat) (task : Bool) (id : Nat) (s : State) : Out :=
  let s := s.countUce cluster
  .next (if task then (match s.task? cluster id with | some t => s.taskFail cluster t ⟨5, 0, 0⟩ | none => s)
    else (match s.copy? cluster id with | some c => s.copyFail cluster c ⟨5, 0, 0⟩ | none => s))
/-- A grid is ended: its waves stop at once and its engine operations are discarded (R316). -/
def Core.stopGrid (c : Core) (grid : Nat) : Core :=
  { c with waves := c.waves.map (fun e => if e.2.grid = grid then
      (e.1, { e.2 with splits := [], drain := [], trap := none, exited := true }) else e),
           ops := c.ops.filter (fun o => o.grid != grid || o.kind.dest == .none),
           saved := c.saved.filter (fun b => b.grid != grid) }
def Cluster.dropGrid (cl : Cluster) (grid : Nat) : Cluster :=
  { cl with copies := cl.copies.filter (fun x => x.grid != grid), tasks := cl.tasks.filter (fun x => x.grid != grid),
            sides := cl.sides.filter (fun x => x.grid != grid), empties := cl.empties.filter (fun x => x.grid != grid) }
/-- Assumption 61. -/
def State.stopGrid (s : State) (grid : Nat) : State :=
  let s := { s with cores := s.cores.map (fun e : Nat × Core => (e.1, e.2.stopGrid grid)),
                    clusters := s.clusters.map (fun e : Nat × Cluster => (e.1, e.2.dropGrid grid)) }
  s.updGrid grid (fun g => { g with killed := true, blocks := g.blocks.filter (fun e => match e.2 with | .on _ => true | _ => false) })
/-- An uncorrectable error in the barrier unit or the set table: the grid reports BARFAULT and is ended (R259, R316). `seq` marks one in the
loop sequencer, which the table gives no row of its own: from then on a NEST over it traps. Assumptions 18 and 61. -/
def execBarrierUnitError (e : UnitError) (s : State) : Out :=
  let s := s.countUce e.cluster
  .next (if e.seq then s.updCluster e.cluster (fun cl => { cl with seqBad := true }) else match (s.cluster e.cluster).grid with
    | none => s
    | some g => ((s.gridErr g 0x11).emit (.barfault g)).stopGrid g)

end Sys2Proof.Machine
end

