-- ==== Sys2Proof/Machine/Energy.lean ====
section
/-! DEFINITION. Energy banks, their spans, commits and signed readings, health records, attestation and the end-of-life
prediction (R348 to R354, R358). -/

namespace Sys2Proof.Machine

/-! ### Attribution (R349, Table 16.4) -/

/-- Reading n of what the controller measures in a span, in nJ or as a weight: 0 to 23 the dynamic part of compute island
i, 24 to 47 its static estimate, 48 HBM PHY, 49 UALink, 50 NoC and L2, 51 cistern and hinge, 52 management; then by
partition number from 53 on 2,048 × row activations + bytes, from 61 on flits. -/
def meter (m : List Nat) (n : Nat) : Nat := m.getD n 0
/-- Subcounters of a bank. -/
inductive SubCtr where
  | cdyn | hbm | fab | stat | unc
  deriving DecidableEq, Repr
/-- A share of a whole number of µJ is added to a subcounter, and to TOTAL (R348). -/
def EBank.add (b : EBank) (k : SubCtr) (n : Nat) : EBank :=
  let b := { b with total := (b.total + n) % 2 ^ 64 }
  match k with
  | .cdyn => { b with cdyn := (b.cdyn + n) % 2 ^ 64 }
  | .hbm => { b with hbm := (b.hbm + n) % 2 ^ 64 }
  | .fab => { b with fab := (b.fab + n) % 2 ^ 64 }
  | .stat => { b with stat := (b.stat + n) % 2 ^ 64 }
  | .unc => { b with unc := (b.unc + n) % 2 ^ 64 }
def Pack.addBank (p : Pack) (n : Nat) (k : SubCtr) (x : Nat) : Pack := { p with banks := NMap.upd p.banks n (fun b => b.add k x) }
def sumNat (l : List Nat) : Nat := l.foldl (fun a b => a + b) 0
/-- Divide the energy of a pool by weights, each share rounded down to a whole µJ and the rest carried into the pool's
next span; without a weight it goes to the unattributed counter. -/
def Pack.share (p : Pack) (pool nj : Nat) (k : SubCtr) (ws : List (Nat × Nat)) : Pack :=
  let e := nj + NMap.getD p.rem 0 pool
  let total := sumNat (ws.map (·.2))
  if total = 0 then { p with unattr := p.unattr + e / 1000, rem := NMap.put p.rem pool (e % 1000) }
  else
    let parts := ws.map (fun w => (w.1, e * w.2 / total / 1000))
    let p := parts.foldl (fun p x => p.addBank x.1 k x.2) p
    { p with rem := NMap.put p.rem pool (e - 1000 * sumNat (parts.map (·.2))) }
/-- Weights of the partitions by their allocated clusters. -/
def State.byClusters (s : State) : List (Nat × Nat) := s.parts.map (fun e => (e.1, e.2.clusters.length))
/-- Weights found, or the allocated clusters when no partition has any. -/
def State.weights (s : State) (f : Nat × Part → Nat) : List (Nat × Nat) :=
  let w := s.parts.map (fun e : Nat × Part => (e.1, f e))
  if sumNat (w.map (·.2)) = 0 then s.byClusters else w
/-- One span of 1 ms: the energy of each source goes to the partitions, that of the shared islands by the ns each had a grid in flight
(R349, Table 16.4). -/
def execEnergySpan (meters : List Nat) (s : State) : Out :=
  let owner := fun (i : Nat) => ((s.parts.find? (fun e => e.2.islands.contains i)).map (fun e => [(e.1, 1)])).getD []
  let p := (List.range 24).foldl (fun (p : Pack) i => p.share i (meter meters i) .cdyn (owner i)) s.pack
  let p := p.share 24 (sumNat ((List.range 24).map (fun i => meter meters (24 + i)))) .stat s.byClusters
  let p := p.share 25 (meter meters 48) .hbm (s.weights (fun e => meter meters (53 + e.1)))
  let p := p.share 26 (meter meters 49) .fab (s.parts.map (fun e => (e.1, meter meters (61 + e.1))))
  let p := [(27, 50), (28, 51), (29, 52)].foldl (fun (p : Pack) x => p.share x.1 (meter meters x.2) .unc (s.weights (fun e => e.2.busyNs))) p
  .next { s with pack := p, parts := s.parts.map (fun e : Nat × Part => (e.1, { e.2 with busyNs := 0 })) }

/-! ### Signed readings and commits (R350 to R353) -/

/-- Big-endian bytes of a signature over a message (R351; assumption 15). -/
def signature (msg : List Nat) : List Byte := (natLE 64 (Config.sign msg)).reverse
/-- SHA-256 of the attestation certificate, which the firmware versions settle (R351, R357; assumption 15). -/
def certHash (fw : List Nat) : List Byte := natLE 32 (Config.sign (0 :: fw))
/-- A signed reading of a bank (Table 16.5). -/
def Pack.reading (p : Pack) (part : Nat) (b : EBank) : List Byte :=
  let w0 := 1 + 2 ^ 16 * part + 2 ^ 19 * b.gap.toNat + 2 ^ 20 * b.freed.toNat + 2 ^ 32 * (p.resets % 2 ^ 32)
  let body := [w0, b.seq, p.ns, b.total, b.cdyn, b.hbm, b.fab, b.stat, b.unc, b.alloc].flatMap (natLE 8) ++ certHash p.fw ++ natLE 16 0
  body ++ signature (body.map (·.toNat))
/-- The next reading of a bank: its sequence number rises and GAP has been shown (R351, R352). -/
def Pack.nextReading (p : Pack) (part : Nat) : List Byte × Pack :=
  let b := NMap.getD p.banks EBank.zero part
  let b := { b with seq := b.seq + 1 }
  (p.reading part b, { p with banks := NMap.put p.banks part { b with gap := false } })
/-- A reading goes to a partition's snapshot ring (R350). -/
def State.ringWrite (s : State) (part : Nat) (bytes : List Byte) : State :=
  match NMap.get? s.parts part with
  | none => s
  | some p =>
    let a := cisternBase + p.cisBase + p.ring + 192 * (p.ringPos % 16)
    ((s.updMem (fun m => { m with home := Memory.storeBytes m.home a bytes })).updPart part (fun p =>
      { p with ringPos := (p.ringPos + 1) % 16 })).wake (.pa a)
/-- A commit, with power and the banks restored (R352, R357): readings of the allocated partitions, the banks, the reset count and the health records (R350, R353). -/
def State.commit (s : State) : State :=
  if s.pack.power ≠ .on then s else
  let s := s.parts.keys.foldl (fun s k =>
    let r := s.pack.nextReading k
    { s with pack := r.2 }.ringWrite k r.1) s
  s.updPack (fun p => { p with nv := { p.nv with banks := p.banks, resets := p.resets, health := s.clusters.map (fun e => (e.1, e.2.health)) } })
/-- The commit of every second of the time base (R350). -/
def execEnergyCommit (s : State) : Out := .next s.commit
/-- The driver asks for a reading: it does not commit (R350, R351). The nonce is not part of a reading. Without power there is no link, and
in recovery no key to sign with (R357). -/
def execSignedReadingRequest (part _nonce : Nat) (s : State) : Out :=
  .next (if 8 ≤ part ∨ s.pack.power = .off then s
    else if s.pack.power = .recovery then s.emit (.refused part)
    else
      let r := s.pack.nextReading part
      { s with pack := r.2 }.emit (.reading r.1))
/-- The attestation report: nonce, the SHA-256 of each loaded firmware image, CSVER, retirements, EOLPRED, reset count and time base,
signed (R358). -/
def execAttestationRequest (nonce : Nat) (s : State) : Out :=
  let p := s.pack
  if p.power = .off then .next s else if p.power = .recovery then .next (s.emit (.refused 0)) else
  let body := [nonce % 2 ^ 256] ++ p.hashes ++ [p.csver.toNat] ++ p.retired ++ [p.eolpred.toNat, p.resets, p.ns]
  .next (s.emit (.report (body ++ [Config.sign body])))

/-! ### Wear (R354) -/

/-- 24 hours of wear data exist. -/
def Pack.seasoned (p : Pack) : Bool := match p.nv.dataFrom with | some t => decide (t + 86400000000000 ≤ p.ns) | none => false
/-- What the hour's measurements add to a cluster's health: its drift, and the correctable errors found since the last (R353). -/
def Health.measured (h : Health) (drift errs : Nat) : Health :=
  { h with drift := drift % 65536, ce := Nat.min 65535 (h.ce + errs) }
/-- EOLPRED from what the firmware found: unit, kind, confidence and days, the confidence 0 until 24 hours of data exist (R354). What it
combines is kept: each cluster's drift and correctable errors, and the rates of the HBM pseudo-channels. Assumption 56. -/
def execEolPrediction (w : Wear) (s : State) : Out :=
  let days := if 10000 < w.found.getD 3 0 then 0xFFFFFFFF else w.found.getD 3 0
  let s := { s with clusters := s.clusters.map (fun e : Nat × Cluster =>
    (e.1, { e.2 with health := e.2.health.measured (w.drifts.getD e.1 e.2.health.drift) (w.errs.getD e.1 0) })) }
  .next (s.updPack (fun p =>
    let conf := if p.seasoned then Nat.min 100 (w.found.getD 2 0) else 0
    { p with
      hbmCe := (List.range w.hbm.length).foldl (fun m k => NMap.putD m 0 k (w.hbm.getD k 0)) p.hbmCe,
      nv := { p.nv with dataFrom := p.nv.dataFrom <|> some p.ns },
      eolpred := BitVec.ofNat 64 (2 ^ 46 * (w.found.getD 0 0 % 1024) + 2 ^ 43 * (w.found.getD 1 0 % 4) + 2 ^ 32 * conf + days) }))
/-- Eye margins of the stations' lanes are measured, the worst of each showing in USTAT, and as the fifth that of the hinge link
(R354, Table 18.2). -/
def Pack.eyes (p : Pack) (eyes : List Nat) : Pack :=
  { p with stations := p.stations.map (fun e : Nat × Station => (e.1, { e.2 with eye := eyes.getD e.1 e.2.eye % 65536 })),
           hingeEye := eyes.getD 4 p.hingeEye % 65536, nv := { p.nv with dataFrom := p.nv.dataFrom <|> some p.ns } }
def execEyeMarginMeasurement (eyes : List Nat) (s : State) : Out := .next (s.updPack (fun p => p.eyes eyes))

end Sys2Proof.Machine
end

