-- ==== Sys2Proof/Machine/Launch.lean ====
section
/-! DEFINITION. LAUNCH and its checks (R313 to R315, R318), placement of blocks and gangs (R41, R47, R138, R147 to R150,
R207, R232, R245, R254, R319 to R321, R344), and the ends of waves, blocks and grids (R142, R246, R316). -/

namespace Sys2Proof.Machine

/-! ### The record and its tables (R313, R314, R337) -/

/-- Logical cores of a partition, as physical numbers in logical order (R319). -/
def Part.allCores (p : Part) : List Nat := p.clusters.flatMap (fun c => (List.range 8).map (fun i => 8 * c + i))
/-- Cores a grid may use: under DET or paired, those of clusters with four arrays (R321, R355). -/
def State.usable (s : State) (p : Part) (paired : Bool) : List Nat :=
  p.allCores.filter (fun c => !paired || (s.cluster (c / 8)).arrays.length == 4)
/-- B: blocks of a grid a core can hold (R320). -/
def Grid.perCore (g : Grid) : Nat :=
  if 16 ≤ g.scratch ∨ g.word 9 ≠ 0 then 1
  else Nat.min (32 / g.waves) (Nat.min (2048 / g.nv / g.waves) (2048 / g.ns / g.waves))
/-- n bytes of a table at a virtual address. -/
def State.tableBytes (s : State) (p : Part) (va n : Nat) : Option (List Byte) := vaBytes s.mem p (n / 256 + 2) va n
/-- A nest descriptor: none if it cannot be read, else its bounds and order if it is accepted (R314, Table 15.9). -/
def State.readNest (s : State) (p : Part) (va : Nat) : Option (Option (List Nat × List Nat)) :=
  (s.tableBytes p va 64).map (fun b =>
    let d := imgNat b 0 1 + 1
    let order := (List.range 6).map (fun j => imgNat b (1 + j) 1)
    let dims := (List.range 6).map (fun i => imgNat b (8 + 4 * i) 4)
    let ok := decide (d ≤ 6) && imgNat b 7 1 == 0 && imgNat b 0x20 32 == 0 && (order.drop d).all (· == 0) && (dims.drop d).all (· == 0) &&
      (List.range d).all (fun k => (order.take d).contains k) && (dims.take d).all (· != 0)
    if ok then some (dims.take d, order.take d) else none)
/-- The filled entries of a set table (R247, R337). -/
def readSets (b : List Byte) : NMap (List Nat) :=
  (List.range 256).foldl (fun m n =>
    let l := (List.range 1024).filter (fun k => (b.getD (128 * n + k / 8) 0#8).getLsbD (k % 8))
    if l.isEmpty then m else NMap.put m n l) []
/-- Bindings of a queue table (R245, R337). -/
def readQueues (b : List Byte) : List (Nat × Nat) :=
  (List.range 16).filterMap (fun n => let w := imgNat b n 1; if w = 255 then none else some (n, w))

/-- A grid as its record names it, before its tables. -/
def Grid.ofRecord (id part seq : Nat) (r : List W64) : Grid :=
  { id := id, part := part, seq := seq, record := r, det := recBits r 0 16 1 == 1, nest := none, sets := [], queues := [],
    place := none, cores := [], next := 0, gangs := [], blocks := [], nblocks := recBits r 1 0 32, ran := 0, err := 0, bars := [],
    started := [], killed := false, armed := false, gone := [] }
/-- Gang sizes a grid uses (Table 15.2). -/
def Grid.gangSizes (g : Grid) : List Nat :=
  let pref := recBits g.record 2 0 16
  let fall := recBits g.record 2 16 16
  match recBits g.record 0 11 2 with | 0 => [pref] | 1 => [fall] | _ => [pref, fall]
/-- RECBAD but for the nest descriptor (Table 15.4). Assumption 50. -/
def Grid.recBad (g : Grid) : Bool :=
  let r := g.record
  let e := recBits r 3 0 48
  recBits r 0 56 8 != 0 || recBits r 0 21 1 != 0 || recBits r 0 0 11 != 0 || recBits r 0 17 2 == 3 || recBits r 0 11 2 == 3 ||
  !(decide (1 ≤ g.waves) && decide (g.waves ≤ 32)) ||
  !(decide (8 ≤ g.nv) && decide (g.nv ≤ 128) && g.nv % 8 == 0) || !(decide (8 ≤ g.ns) && decide (g.ns ≤ 64) && g.ns % 8 == 0) ||
  g.nblocks == 0 || recBits r 2 32 32 != 0 || recBits r 3 48 16 != 0 || e % (if g.beyrum then 8 else 32) != 0 || g.rb % 4096 != 0 ||
  recBits r 11 17 47 != 0 || recBits r 12 48 9 != 0 || recBits r 12 0 48 % 32 != 0 || g.word 14 != 0 || g.word 15 != 0
/-- How many blocks of a list stand on each core: the largest count. -/
def mostOn (l : List Nat) : Nat := l.foldl (fun m c => Nat.max m (l.filter (· == c)).length) 0
/-- Blocks of one gang on one core: gangs are cut from block 0 onward. -/
def gangsOk (size b : Nat) : Nat → List Nat → Bool
  | 0, _ => true
  | f + 1, l => l.isEmpty || (decide (mostOn (l.take size) ≤ b) && gangsOk size b f (l.drop size))
/-- PLACE (Table 15.4). -/
def Grid.placeBad (g : Grid) (p : Part) (usable : List Nat) (l : List Nat) : Bool :=
  let b := g.perCore
  l.any (fun c => match p.physCore c with | some k => !(usable.contains k) | none => true) ||
  decide (b < mostOn (l.take (recBits g.record 1 32 32))) || (g.det && decide (b < mostOn l)) ||
  g.gangSizes.any (fun z => !(gangsOk (Nat.max z 1) b l.length l))
/-- SETMEMB: a logical core in more than four filled entries (R247). -/
def setsBadly (sets : NMap (List Nat)) : Bool :=
  (List.range 1024).any (fun l => decide (4 < (sets.filter (fun e => e.2.contains l)).length))
/-- NESTGRID (R257). Assumption 50. -/
def Grid.nestBad (g : Grid) (usable : List Nat) (nest : List Nat × List Nat) (place : Option (List Nat)) : Bool :=
  decide (usable.length < g.nblocks) || decide (2 ^ 64 ≤ prod nest.1) || (match place with | some l => decide (1 < mostOn l) | none => false)

/-- A record's check: the grid with its tables, or the first error of Table 15.4 in its order (R315). `cmd` is true of a
command core's LAUNCH. Assumption 49. Assumption 51. -/
def State.checkLaunch (s : State) (p : Part) (cmd : Bool) (g : Grid) : Except Nat Grid :=
  let us := s.usable p g.paired
  let cap := g.perCore * us.length
  let want := recBits g.record 1 32 32
  let nest : Option (Option (Option (List Nat × List Nat))) := if g.word 8 = 0 then some (some none) else (s.readNest p (g.word 8)).map (fun x => x.map some)
  let place : Option (Option (List Nat)) := if g.word 10 = 0 then some none
    else (s.tableBytes p (g.word 10) (4 * g.nblocks)).map (fun b => some ((List.range g.nblocks).map (fun k => imgNat b (4 * k) 4)))
  let sets : Option (NMap (List Nat)) := if g.word 7 = 0 then some [] else (s.tableBytes p (g.word 7) 32768).map readSets
  let queues : Option (List (Nat × Nat)) := if g.word 9 = 0 then some [] else (s.tableBytes p (g.word 9) 16).map readQueues
  let dest := match translate s.mem p (recBits g.record 12 0 48) .wr with | .ok _ _ => true | _ => false
  let sizes := g.gangSizes
  if g.recBad || nest == some none then .error 0x01
  else if 288 < g.scratch ∨ g.scratch % 16 ≠ 0 then .error 0x02
  else if g.det && decide (112 < g.nv) then .error 0x03
  else if g.det && (g.quantum || decide (want < g.nblocks)) then .error 0x04
  else if sizes.any (fun z => z == 0 || decide (4096 < z) || decide (cap < z)) || decide (recBits g.record 2 0 16 < recBits g.record 2 16 16) then .error 0x05
  else if cap < want then .error 0x06
  else if (match place with | some (some l) => g.placeBad p us l | _ => false) then .error 0x07
  else if (match sets with | some m => setsBadly m | none => false) then .error 0x08
  else if (match nest with | some (some (some n)) => g.nestBad us n (place.getD none) | _ => false) then .error 0x09
  else match nest, place, sets, queues with
    | some (some nest), some place, some sets, some queues =>
      if !dest then .error 0x0A
      else if g.priv && !cmd then .error 0x0B
      else .ok { g with
        nest := nest, sets := sets, queues := queues, place := place.map (fun l => l.filterMap p.physCore),
        cores := match place with
          | some l => p.allCores.filter (fun c => (l.filterMap p.physCore).contains c)
          | none => us.take (Nat.min g.nblocks us.length) }
    | _, _, _, _ => .error 0x0A

/-! ### LAUNCH (R143, R315) -/

/-- A completion record of four words written by the package, words 1 to 3 before word 0: in local memory, or on a page of a peer by one
request (R316, R375). None if the page is unmapped or read-only, or its home does not answer (assumption 91). -/
def State.recordWrite (s : State) (p : Part) (va w0 rest : Nat) : Option State :=
  match translate s.mem p va .wr with
  | .ok pa _ =>
    if isRemote pa then
      (if s.linkUp then some (s.sendReq 1 pa [{ ofs := (pa + 8) % 256, len := 24, data := natLE 24 rest }, { ofs := pa % 256, len := 8, data := natLE 8 w0 }])
      else none)
    else (s.homeStore (pa + 8) 24 rest .cg).bind (fun t => t.homeStore pa 8 w0 .cg)
  | _ => none
/-- The completion record's words, word 0 last, and the interrupt; a record that cannot be written sets CRLOST (R316). -/
def State.complete (s : State) (part : Nat) (r : List W64) (code seq ran : Nat) : State :=
  match NMap.get? s.parts part with
  | none => s
  | some p =>
    let a := recBits r 12 0 48
    let w0 := 1 + 2 ^ 8 * (code % 256) + 2 ^ 32 * (seq % 2 ^ 32)
    let s := match s.recordWrite p a w0 (s.timeNs % 2 ^ 64 + 2 ^ 64 * ran) with
      | some t => t
      | none => s.updPart part (fun p => { p with lstat := p.lstat ||| 0x10000#64 })
    if recBits r 12 57 1 = 1 then s.raiseInts part (laneBit (recBits r 12 58 6)) else s
/-- LSTAT of a launch: its code and sequence number. -/
def State.setLstat (s : State) (part code seq : Nat) : State :=
  s.updPart part (fun p => { p with lstat := (p.lstat &&& 0x30000#64) ||| BitVec.ofNat 64 (code + 2 ^ 32 * (seq % 2 ^ 32)), seqLaunch := seq })
/-- The longest time from LAUNCH to the placement of the first block, in ticks: the first bundle issues in the next issue cycle, at most
400 ns after LAUNCH (Table 0.2). -/
def launchTicks : Nat := 390 * tpNs
/-- A record at an address is launched: refused with its code, or its grid joins the partition's grids and its placement
begins within the launch latency. Assumption 48. -/
def State.launchAt (s : State) (p : Part) (cmd : Bool) (va : Nat) : State :=
  let seq := p.seqLaunch + 1
  match (if va % 8 = 0 then s.tableBytes p va 128 else none) with
  | none => s.setLstat p.num 0x0A seq
  | some b =>
    let r := (List.range 16).map (fun k => BitVec.ofNat 64 (imgNat b (8 * k) 8))
    match s.checkLaunch p cmd (Grid.ofRecord s.nextId p.num seq r) with
    | .error code =>
      let s := s.setLstat p.num code seq
      if recBits r 12 0 48 % 32 = 0 ∧ (match translate s.mem p (recBits r 12 0 48) .wr with | .ok _ _ => true | _ => false) = true
      then s.complete p.num r code seq 0 else s
    | .ok g =>
      let s := s.setLstat p.num 0 seq
      let g := { g with net := s.pack.peers.map (fun e => (e.1, e.2.base)) }
      { s with grids := s.grids ++ [g], nextId := s.nextId + 1, fresh := s.fresh + 1 }.schedule
        (Config.freeNat s.fresh % launchTicks) (.blockPlacement g.id)
/-- LAUNCH (R143, R315). Assumption 19. Assumption 48. -/
def execLaunch (n : BitVec 6) (s : State) : Out :=
  s.slotOp launchBad (fun i =>
    match s.partOf i.core with
    | none => s
    | some p => s.launchAt p (isCmdCore i.core) (s.cRead i n).toNat)

/-! ### Starting a grid on a cluster and a core (R147, R148, R150, R207, R232, R254, R344) -/

/-- S and W under the floor of the cluster's island (R344, Table 16.11). -/
def clampSlope (floor : W64) (slope waves : Nat) : Nat × Nat :=
  (Nat.max slope (bitsNat floor.toNat 8 8), Nat.min (Nat.max 1 waves) (Nat.max 1 (bitsNat floor.toNat 0 8)))
def State.floorOf (s : State) (cluster : Nat) : W64 := (NMap.get? s.pack.islflr (cluster / 4)).getD 0x0420#64
/-- The clock of a cluster whose launch does not boost, at 1/2 or under DET: a boosted step is given up, also one to come (R4, R183,
R343). -/
def Cluster.unboost (cl : Cluster) : Cluster :=
  if cl.ratio = .half ∨ cl.det then { cl with mhz := Nat.min cl.mhz 940, newMhz := cl.newMhz.map (Nat.min 940) } else cl
/-- A request for BREQ made while a launch held the cluster is written when the launch leaves it (R343). -/
def Cluster.takeBreq (cl : Cluster) : Cluster :=
  { cl with boost := (match cl.breqNext with | some b => (cl.boost &&& 2#64) ||| (if b then 1#64 else 0#64) | none => cl.boost), breqNext := none }
/-- A cluster's launch start: arrays, carries and bindings clear, the slope is latched. -/
def State.startCluster (s : State) (g : Grid) (c : Nat) : State :=
  if (s.cluster c).grid = some g.id then s
  else
    let x := clampSlope (s.floorOf c) (bitsNat (s.cluster c).islope.toNat 8 8) (bitsNat (s.cluster c).islope.toNat 0 8)
    s.updCluster c (fun cl => Cluster.unboost { cl with
      grid := some g.id, arrays := cl.arrays.map (fun e => (e.1, MArray.reset)), bind := [], rel := [], paired := g.paired, winIc := 0,
      ratio := g.ratio, det := g.det, latS := x.1, latW := x.2 })
/-- A core's launch start: scratchpad and L1 clear, tags read zero, nothing is inherited; what an ended grid still had to store to the
scratchpad is lost with it (R147, R150). -/
def State.startCore (s : State) (g : Grid) (c : Nat) : State :=
  let s := s.startCluster g (c / 8)
  if (s.core c).grid = some g.id then s
  else
    let s := s.updCore c (fun k => { (k.l1Drop true) with
      grid := some g.id, scratch := [], rows := [], size := g.scratch, tags := 0#64, tagerr := 0#64, setNow := 0#64, watch := [],
      queues := [], kept := [], earned := [], ages := Claims.zero, rot := none, hold := false, overrun := false, leaving := none,
      ops := k.ops.map (fun o : VarOp => match o.kind with | .spStore => { o with reqs := [] } | _ => o) })
    s.updGrid g.id (fun g => { g with started := (g.started.filter (· < c)) ++ [c] ++ g.started.filter (c < ·) })

/-! ### Waves and blocks (R41, R138, R245, R312, R319) -/

/-- Slots of a core whose register block a task has still to read (R226). -/
def Cluster.readSlots (cl : Cluster) (core : Nat) : List Nat :=
  (cl.tasks.filter (fun t => t.core == core && !t.done && !t.regs.isEmpty)).map (·.wave)
/-- Wave slots a block's waves may take: with 128 vector registers a slot below 16 whose partner is free too (R319); a slot whose
registers a task has still to read stays taken (R226). -/
def freeSlots (c : Core) (nv : Nat) (busy : List Nat) : List Nat :=
  let empty := fun k => (NMap.get? c.waves k).isNone && !(busy.contains k)
  if nv = 128 then (List.range 16).filter (fun k => empty k && empty (k + 16))
  else (List.range 32).filter (fun k => empty k && (k < 16 || (match NMap.get? c.waves (k - 16) with | some w => w.nv != 128 | none => true)))
/-- A wave as it starts (Table 2.1). -/
def Grid.wave (g : Grid) (uid block gang widx lcore : Nat) (kept : VMap) : Wave :=
  let reg := fun (m : RMap) (e : Nat × Nat) => RMap.wr m e.1 (BitVec.ofNat 64 e.2)
  { Wave.dead with
    uid := uid, grid := g.id, block := block, gang := gang, widx := widx, lcore := lcore, priv := g.priv, carried := g.beyrum,
    nv := g.nv, ns := g.ns, v := kept,
    s := ([(0, block), (1, widx), (2, lcore), (3, g.word 4), (4, gang)] : List (Nat × Nat)).foldl reg [],
    rngseed := waveSeed (g.record.getD 5 0#64) (block % 2 ^ 32) widx (gang % 2 ^ 32),
    splits := [(0, Split.start 0 g.entry (BitVec.allOnes 64) 0)], nextAge := 1, exited := false }
/-- One wave of a block starts in a slot; the queues bound to its index open empty. -/
def State.startWave (s : State) (g : Grid) (core block gang widx slot : Nat) : State :=
  let kept := (NMap.get? (s.core core).kept widx).getD []
  let w := g.wave s.nextId block gang widx (s.lcoreOf core) kept
  let qs := g.queues.filter (fun x : Nat × Nat => x.2 == widx)
  { s with nextId := s.nextId + 1 }.updCore core (fun c => { c with
    waves := NMap.put c.waves slot w,
    queues := qs.foldl (fun (m : NMap OpQueue) (x : Nat × Nat) => NMap.put m x.1 { bound := some slot, head := 0, ents := [] }) c.queues })
/-- A block starts on a core. Of two blocks that ended before it, it takes the inherited registers of the one that ended last, and the next
block finds none (DESIGN CHOICE, assumption 52). -/
def State.startBlock (s : State) (g : Grid) (core block gang : Nat) : State :=
  let s := s.startCore g core
  let slots := freeSlots (s.core core) g.nv ((s.cluster (core / 8)).readSlots core)
  let s := (List.range g.waves).foldl (fun s k => s.startWave g core block gang k (slots.getD k 0)) s
  let s := s.updCore core (fun c => { c with kept := c.kept.filter (fun e => decide (64 ≤ e.1)), earned := NMap.put c.earned block 0 })
  s.updGrid g.id (fun g => { g with blocks := NMap.put g.blocks block (.on core) })

/-! ### Placement (R315, R319 to R321) -/

/-- An engine operation of a grid is under way. -/
def State.engineBusy (s : State) (grid : Nat) : Bool :=
  s.clusters.any (fun e => e.2.copies.any (·.grid == grid) || e.2.tasks.any (·.grid == grid) || e.2.sides.any (·.grid == grid) ||
    e.2.empties.any (·.grid == grid)) ||
  s.cores.any (fun e => e.2.ops.any (fun o => o.grid == grid && (match o.kind with | .bpref _ _ => true | _ => false)))
/-- A grid has no block left, nor an engine operation: its clusters may serve another (R147). -/
def State.vacant (s : State) (grid : Nat) : Bool :=
  match s.grid? grid with | some g => g.wavesDone && !(s.engineBusy grid) | none => true
/-- Blocks of a grid on a core. -/
def Grid.onHere (g : Grid) (core : Nat) : Nat := (g.blocks.filter (fun e => match e.2 with | .on c => c == core | _ => false)).length
/-- The vector and scalar registers of a core suffice for n more waves of a grid (R42), beside its waves and the register blocks a task has
still to read (R226). R320 gives B = 1 under SCRATCH or a queue table whatever the registers: a block that passes R42's bound there is
never placed (DESIGN CHOICE, assumption 97). -/
def State.regRoom (s : State) (g : Grid) (core n : Nat) : Bool :=
  let c := s.core core
  let read := (((s.cluster (core / 8)).readSlots core).eraseDups.filter (fun k => (NMap.get? c.waves k).isNone)).length
  decide ((c.waves.length + read + n) * g.nv ≤ 2048) && decide ((c.waves.length + n) * g.ns ≤ 2048)
/-- A core can take one more block beside `extra` others placed with it (R42, R147, R320). -/
def State.canHold (s : State) (g : Grid) (core extra : Nat) : Bool :=
  let c := s.core core
  (match (s.cluster (core / 8)).grid with | some x => x == g.id || s.vacant x | none => true) && !c.hold &&
  c.waves.all (fun e => e.2.grid == g.id) && decide (g.onHere core + extra < g.perCore) &&
  s.regRoom g core (g.waves * (extra + 1)) &&
  decide (g.waves * (extra + 1) ≤ (freeSlots c g.nv ((s.cluster (core / 8)).readSlots core)).length)
/-- The core of the next block: fixed by rank, by the list, or the lowest that can hold it. -/
def State.coreFor (s : State) (g : Grid) (us : List Nat) (b : Nat) (taken : List (Nat × Nat)) : Option Nat :=
  let fits := fun c => s.canHold g c (taken.filter (fun x => x.2 == c)).length
  let fixed := fun (c : Option Nat) => c.bind (fun k => if fits k then some k else none)
  if g.det then fixed (g.cores[b % Nat.max 1 g.cores.length]?)
  else match g.place with
    | some l => fixed (l[b]?)
    | none => if g.nest.isSome then fixed (g.cores[b % Nat.max 1 g.cores.length]?) else us.find? fits
/-- Cores for n blocks from block b on, all at once. Assumption 51. -/
def State.gangCores (s : State) (g : Grid) (us : List Nat) : Nat → Nat → List (Nat × Nat) → Option (List (Nat × Nat))
  | 0, _, acc => some acc
  | n + 1, b, acc => (s.coreFor g us b acc).bind (fun c => State.gangCores s g us n (b + 1) (acc ++ [(b, c)]))
/-- A block waits for its first placement. -/
def Grid.waiting (g : Grid) : Bool := !g.killed && decide (g.next < g.nblocks)
/-- The next gang of a grid with its cores, if all its blocks fit now: preferred size first (R319). -/
def State.nextGang (s : State) (g : Grid) : Option (List (Nat × Nat)) :=
  match NMap.get? s.parts g.part with
  | none => none
  | some p =>
    let us := s.usable p g.paired
    let earlier := s.grids.any (fun x => x.part == g.part && decide (x.seq < g.seq) && x.waiting)
    if !g.waiting || earlier || p.scrub.isSome || p.saving != 0 then none
    else g.gangSizes.foldl (fun r z => match r with
      | some x => some x
      | none => s.gangCores g us (Nat.min z (g.nblocks - g.next)) g.next []) none
/-- A gang starts on its cores. -/
def State.placeGang (s : State) (g : Grid) (l : List (Nat × Nat)) : State :=
  let k := g.gangs.length
  let s := l.foldl (fun s x => s.startBlock g x.2 x.1 k) s
  s.updGrid g.id (fun x => { x with next := g.next + l.length, gangs := g.gangs ++ [(g.next, l.length)] })
/-- The distributor places the next gang of a grid when all its blocks fit (R319, R321). -/
def execBlockPlacement (grid : Nat) (s : State) : Out :=
  let s := s.updGrid grid (fun g => { g with armed := true })
  .next (match s.grid? grid with
    | none => s
    | some g => match s.nextGang g with
      | some l => s.placeGang g l
      | none => s)

/-! ### Ends (R47, R142, R246, R316) -/

/-- A tag of a core reads set, or an operation under way that can itself go on will set it. -/
def State.tagComes (s : State) (core : Nat) : Nat → Nat → Bool
  | 0, _ => false
  | n + 1, t =>
    let cl := s.cluster (clusterOf core)
    let on := fun (k p : Nat) (ws : List Nat) => k == core && p == t && ws.all (State.tagComes s core n)
    (s.core core).tags.getLsbD t || cl.copies.any (fun o => on o.core o.ptag o.waits) || cl.tasks.any (fun o => on o.core o.ptag o.waits) ||
    cl.sides.any (fun o => on o.core o.ptag o.waits) || cl.empties.any (fun o => on o.core o.ptag o.waits) ||
    (s.core core).ops.any (fun o => match o.kind with | .bpref p _ => p == t | _ => false)
/-- An MXRD or MXCRD of a wave has still to write its registers; one whose tags nothing on its core can set any more will not (R142, R227, R229,
R234; assumption 99). -/
def State.sideOpen (s : State) (core uid : Nat) : Bool :=
  (s.cluster (clusterOf core)).sides.any (fun o => o.core == core && o.uid == uid && !o.regs.isEmpty &&
    (o.started || (s.core core).waves.any (fun e => !e.2.exited) || o.waits.all (s.tagComes core 64)))
/-- Register writes of a wave are still in flight. -/
def State.writesOpen (s : State) (core uid : Nat) : Bool :=
  (s.core core).ops.any (fun o => o.uid == uid && o.kind.dest != .none) || s.sideOpen core uid
/-- The queues bound to a wave slot close: their commands end with cause 4 (R245, R246). -/
def State.closeQueues (s : State) (core slot : Nat) : State :=
  let qs := ((s.core core).queues.filter (fun e : Nat × OpQueue => e.2.bound == some slot)).map (·.1)
  let cl := core / 8
  let open_ := (s.cluster cl).copies.filter (fun c => c.core == core &&
    ((c.kind == .cpyq && qs.contains ((c.words.getD 1 0#64).toNat % 16)) || (c.kind == .cpyo && qs.contains ((c.words.getD 0 0#64).toNat % 16))))
  let s := open_.foldl (fun s c => s.cpyoEnd cl c (some ⟨4, 0, 0⟩)) s
  s.updCore core (fun c => { c with queues := c.queues.filter (fun e => e.2.bound != some slot) })
/-- The inherited registers a wave leaves, with rbase 0 (R47). Assumption 52. -/
def Grid.handed (g : Grid) (w : Wave) : VMap :=
  match g.inherit with
  | some (a, b) => w.v.filter (fun e => decide (a ≤ e.1 / 64) && decide (e.1 / 64 ≤ b))
  | none => []
/-- The context after one, passing over those that do not resume. Assumption 54. -/
def Part.after (p : Part) (c : Nat) : Option Nat :=
  let n := p.ctxs.length
  ((List.range n).map (fun k => (c + 1 + k) % n)).find? (fun k => match p.ctxs[k]? with | some x => !x.hold | none => false)
/-- A command stream that has exited ends its context: its grids are ended, and the partition turns to its next context (R323).
Assumption 77. -/
def State.endContext (s : State) (p : Part) : State :=
  let s := (s.grids.filter (fun g => g.part == p.num)).foldl (fun s g => s.stopGrid g.id) s
  ((s.updCore (768 + p.cmd) (fun c => { Core.reset with utlb := c.utlb, ops := c.ops })).updPart p.num (fun p =>
    let q := { p with ctxs := p.ctxs.map (fun x : Ctx => if some x.num = p.run then { x with hold := true, base := p.ctxbase } else x) }
    { q with run := none, next := p.run.bind q.after })).applyHeld p.num
/-- A wave whose lanes have exited ends once its register writes have landed; its block ends with its last wave and hands
on its inherited range (R47, R142). Assumption 52. -/
def execWaveEnd (core wave : Nat) (s : State) : Out :=
  .next (match s.wave? core wave with
    | none => s
    | some w =>
      if !w.exited || !w.drain.isEmpty || s.writesOpen core w.uid then s
      else if isCmdCore core then (match s.partOf core with | some p => if p.saving = 0 then s.endContext p else s | none => s)
      else if w.grid == 0 then s
      else
        let s := s.closeQueues core wave
        let held := match s.grid? w.grid with | some g => g.handed w | none => []
        let s := s.updCore core (fun c => { c with waves := NMap.del c.waves wave, kept := NMap.put c.kept (64 * (w.block + 1) + w.widx) held })
        let s := s.updGrid w.grid (fun g => { g with gone := g.gone ++ [(w.uid, w.block, w.gang, core)] })
        if (s.core core).waves.any (fun e => e.2.grid == w.grid && e.2.block == w.block) then s
        else
          let s := s.updCore core (fun c => { c with
            earned := NMap.del c.earned w.block,
            kept := (c.kept.filter (fun e => e.1 / 64 == w.block + 1)).map (fun e => (e.1 % 64, e.2)) ++
              c.kept.filter (fun e => decide (64 ≤ e.1) && e.1 / 64 != w.block + 1) })
          s.updGrid w.grid (fun g => { g with blocks := NMap.del g.blocks w.block, ran := g.ran + 1 }))

/-- A grid can end: no block, engine operation or access of its waves is left (R316). -/
def State.gridDone (s : State) (g : Grid) : Bool :=
  g.wavesDone && !(s.engineBusy g.id) && !(s.cores.any (fun e => e.2.ops.any (fun o => o.grid == g.id)))
/-- A grid ends: its clusters are free, its completion record is written, and held registers take effect when it was
the partition's last (R8, R312, R316). -/
def execGridEnd (grid : Nat) (s : State) : Out :=
  .next (match s.grid? grid with
    | none => s
    | some g =>
      if !(s.gridDone g) then s
      else
        let s := { s with grids := s.grids.filter (fun x => x.id != grid),
                          clusters := s.clusters.map (fun e : Nat × Cluster => (e.1, if e.2.grid = some grid then { e.2.takeBreq with grid := none, det := false } else e.2)) }
        let s := s.complete g.part g.record g.err g.seq g.ran
        s.applyHeld g.part)

end Sys2Proof.Machine
end

