-- ==== Sys2Proof/Machine/Context.lean ====
section
/-! DEFINITION. Contexts, slices, saves and restores (R193, R194, R224, R244, R317, R324, R327 to R330) and partitions
(R150, R207, R325, R348, R368, R369). -/

namespace Sys2Proof.Machine

/-! ### Images of the save areas (Tables 7.5, 7.6, 9.10, 15.6) -/

/-- Store bytes of a save area; what does not translate is dropped (assumption 10). -/
def putImage (m : Mems) (p : Part) (va : Nat) (bs : List Byte) : Mems := vaStoreBytes p (bs.length / 256 + 2) m va bs
/-- The vector image of a wave: registers in physical order, from register `lo` (Table 7.5). -/
def vecImage (w : Wave) (lo n : Nat) : List Byte :=
  (List.range n).flatMap (fun r => (List.range 64).flatMap (fun l => natLE 4 (VMap.rd w.v (64 * (lo + r) + l)).toNat))
/-- The result units of a wave's pending operations under DET, 256 bytes each, in the order of issue: the lanes whose data has come; the
others are free (R193, Table 7.5). -/
def pendingImage (ops : List VarOp) (uid fr : Nat) : List Byte :=
  let lane := fun (o : VarOp) (hi l : Nat) => match o.reqs.find? (fun r => r.lane == l && r.done && !r.err) with
    | some r => natLE 4 (r.val / 2 ^ (32 * hi))
    | none => freeBytes (fr + 4 * l) 4
  let unit := fun (o : VarOp) (hi : Nat) => (List.range 64).flatMap (lane o hi)
  let bs := (ops.filter (fun o => o.uid == uid)).flatMap (fun o => match o.kind.dest with
    | .v _ none => unit o 0
    | .v _ (some _) => unit o 0 ++ unit o 1
    | .s _ => lane o 0 0 ++ lane o 1 0 ++ natLE 248 0
    | _ => [])
  (bs.take 2048) ++ natLE (2048 - bs.length) 0
/-- A wave's context slot, its control word written last; registers 120 to 127 go to offset `hi` of the slot, if it has a place for
them (R193, R324, R329; assumption 10). `ops` are the core's operations under DET. -/
def putWave (m : Mems) (p : Part) (va ctrl : Nat) (w : Wave) (hi : Option Nat) (ops : Option (List VarOp)) : Mems :=
  let fr := w.slotBase ops.isSome
  let rec_ := match w.trap with | some t => (List.range 16).map (fun i => t.reg w.carried (0x40 + i)) | none => List.replicate 16 0#64
  let m := putImage m p va (ctxHeader w w.own w.rngidx rec_ (ctrl - 1) fr)
  let m := putImage m p (va + 0x2800) (vecImage w 0 (Nat.min w.nv 120))
  let m := match ops with | some l => putImage m p (va + 0x9800) (pendingImage l w.uid (fr + 4096)) | none => m
  let m := match hi with | some o => if 120 < w.nv then putImage m p (va + o) (vecImage w 120 (w.nv - 120)) else m | none => m
  putImage m p va (natLE 8 ctrl)
/-- Where registers 120 to 127 of a wave lie, from its slot: slot w + 16 (R193). The area of
one block has no such slot (R324; DESIGN CHOICE, assumption 86). -/
def hiSlot : Nat := 16 * 40960 + 0x2800
/-- A saved copy command (R193). -/
def copyImage (c : CopyCmd) (pos : Nat) (det : Bool) : List Byte :=
  let ct := fun k => match c.ctags[k]? with | some t => 64 + t | none => 0
  let code := c.kind.op + 2 ^ 3 * c.ptag + 2 ^ 9 * ct 0 + 2 ^ 16 * ct 1 + 2 ^ 23 * ct 2 + 2 ^ 30 * (if c.started then 2 else 1)
  words8 ((List.range 12).map (fun k => c.words.getD k 0#64)) ++ natLE 8 code ++ natLE 8 c.done ++ natLE 8 (if det && c.started then c.rem else 0) ++
  natLE 8 pos
/-- The core-state slot of a core (Table 7.6). -/
def coreImage (c : Core) (copies : List (CopyCmd × Nat)) (det : Bool) (fr : Nat) : List Byte :=
  let queue := fun n => match NMap.get? c.queues n with
    | some q => (List.range 8).flatMap (fun i => match q.ents.find? (fun e => e.slot == i) with | some e => bytesOf e.data | none => natLE 256 0)
    | none => natLE 2048 0
  let state := fun n => match NMap.get? c.queues n with
    | some q => natLE 4 (q.head + 2 ^ 3 * q.ents.length + q.ents.foldl (fun a e => if e.filled then a else a + 2 ^ (8 + e.slot)) 0 +
        2 ^ 16 * (q.bound.getD 0) + (if q.bound.isSome then 2 ^ 31 else 0))
    | none => natLE 4 0
  (List.range 16).flatMap queue ++ (List.range 16).flatMap state ++ natLE 8 c.tags.toNat ++ natLE 8 c.tagerr.toNat ++
  natLE 8 copies.length ++ natLE 8 0 ++ freeBytes fr 256 ++ natLE 672 0 ++ copies.flatMap (fun x => copyImage x.1 x.2 det) ++
  natLE (128 * (128 - copies.length) + 15360) 0
/-- The cluster matrix slot (Table 9.10): stores, carries, records with PROG, and scheduler state whose bits the manual
does not place (assumption 10). -/
def matrixImage (cl : Cluster) (fr : Nat) : List Byte :=
  let acc := fun j => let m := cl.marr j
    (List.range 2).flatMap (fun h => (List.range 128).flatMap (fun r => (List.range 128).flatMap (fun c => natLE 4 (m.rd h r c).toNat)))
  let carry := fun j => let m := cl.marr j
    (List.range 16).flatMap (fun k => (List.range 128).flatMap (fun c => natLE 4 (m.rdC k c 0).toNat ++ natLE 4 (m.rdC k c 1).toNat))
  let task := fun (t : Task) => natLE 8 ((t.words.getD 0 0#64).toNat % 2 ^ 52 + 2 ^ 52 * t.unit) ++ words8 ((List.range 7).map (fun k => t.words.getD (k + 1) 0#64))
  (List.range 4).flatMap acc ++ (List.range 4).flatMap carry ++ (cl.tasks.flatMap task) ++ natLE (64 * (256 - cl.tasks.length)) 0 ++ freeBytes fr 8192
/-- Copy commands of a core with their places in the cluster's queue. -/
def Cluster.copiesOf (cl : Cluster) (core : Nat) : List (CopyCmd × Nat) :=
  (List.range cl.copies.length).filterMap (fun k => (cl.copies[k]?).bind (fun c => if c.core = core then some (c, k) else none))
/-- Write the slots of one core of logical cluster k: its waves, its state and its scratchpad. -/
def State.putCore (s : State) (p : Part) (base k core kind : Nat) : State :=
  let c := s.core core
  let cl := s.cluster (core / 8)
  let m := c.waves.foldl (fun m e =>
    putWave m p (ctxSlot base k (core % 8) e.1) (ctrlWord kind e.2.nv e.2.ns cl.det cl.ratio p.saveSeq true) e.2 (some hiSlot)
      (if cl.det then some c.ops else none)) s.mem
  let at' := base + 0x1000 + k * (13656 * 1024) + core % 8 * (1632 * 1024)
  let m := putImage m p (at' + 1280 * 1024) (coreImage c (cl.copiesOf core) cl.det s.fresh)
  let m := putImage m p (at' + 1344 * 1024) ((List.range (c.size * 1024)).map (fun a => c.spRaw a))
  { s with mem := m, fresh := s.fresh + 8192 }
/-- Every slot of a partition's context. -/
def State.putSlots (s : State) (p : Part) (base kind : Nat) : State :=
  (List.range p.clusters.length).foldl (fun s k =>
    let c := p.clusters.getD k 0
    let s := (List.range 8).foldl (fun s i => s.putCore p base k (8 * c + i) kind) s
    { s with mem := putImage s.mem p (base + 0x1000 + k * (13656 * 1024) + 13056 * 1024) (matrixImage (s.cluster c) s.fresh), fresh := s.fresh + 8192 }) s
/-- The context save header (Table 15.6), reserved bytes zero. The layout of the command core's state is not given, nor that of a grid's
placement state: the next block to place and the blocks run stand in words 14 and 15 of its record, which are zero in an accepted
record (assumption 10). -/
def State.header (s : State) (p : Part) (kind slice seq : Nat) (valid : Bool) : List Byte :=
  let w := s.wave (768 + p.cmd) 0
  natLE 8 (valid.toNat + 2 * kind + 2 ^ 32 * (p.saveSeq % 2 ^ 32)) ++ natLE 8 (w.split 0).pc ++ words8 ((List.range 8).map (fun k => RMap.rd w.s k)) ++
  natLE 8 p.node ++ natLE 8 slice ++ natLE 8 s.timeNs ++ natLE 8 seq ++ (if kind = 1 then natLE 1024 0 else freeBytes s.fresh 1024) ++
  (let recs := ((s.grids.filter (fun g => g.part == p.num)).take 16).flatMap (fun g => words8 ((List.range 14).map (fun k => g.record.getD k 0#64)) ++ natLE 8 g.next ++ natLE 8 g.ran)
   recs ++ natLE (0xB90 - recs.length) 0)

/-! ### Slices (R328) -/

/-- Slice length and grace in ns. -/
def Part.sliceNs (p : Part) : Nat := 1000 * bitsNat p.slice.toNat 0 32
def Part.graceNs (p : Part) : Nat := 1000 * bitsNat p.slice.toNat 32 32
/-- The slice that covers a time. -/
def Part.sliceAt (p : Part) (t : Nat) : Nat := if p.sliceNs = 0 then 0 else (t - p.epoch.toNat) / p.sliceNs
/-- Tend: the end of the running context's slice; none without slicing or with one context. -/
def Part.tend (p : Part) : Option Nat :=
  let n := p.ctxs.length
  match p.run with
  | some c =>
    if n ≤ 1 ∨ p.sliceNs = 0 then none
    else
      let k := p.sliceAt p.since
      some (p.epoch.toNat + (k + (c % n + n - k % n) % n + 1) * p.sliceNs)
  | none => none

/-! ### Saves (R194, R328, R329, R347) -/

/-- Cores a partition's contexts use: its compute cores and its command core. -/
def Part.everyCore (p : Part) : List Nat := p.allCores ++ [768 + p.cmd]
/-- Outside DET every pending WAITA of the saved waves completes spuriously, with a read of its word (R168, R194). -/
def State.spurious (s : State) (core : Nat) (uids : List Nat) : State :=
  { s.updCore core (fun c => { c with ops := c.ops.map (fun o : VarOp => if uids.contains o.uid then o.spur s.fresh else o) }) with fresh := s.fresh + 1 }
/-- A hold between two cycles: what was even still counts one, and what came back in the same gap counts as even (R194). -/
def Sync.paused : Sync → Sync | .even => .behind | .ahead => .even | .behind => .behind
/-- Issue stops on a core for a save of waves. Between two cycles of its cluster, the next one still counts (R194). Assumption 28. -/
def State.holdCore (s : State) (core : Nat) (uids : List Nat) : State :=
  (s.updCore core (fun c => { c with hold := true, sync := if s.inCycle (clusterOf core) || c.hold then c.sync else c.sync.paused })).spurious core uids
/-- A core goes on after a hold: between two cycles of its cluster the next one counts nothing (R194). -/
def State.release (s : State) (core : Nat) : State :=
  s.updCore core (fun c => { c with hold := false, sync := if s.inCycle (clusterOf core) || !c.hold then c.sync else .ahead })
def Core.uids (c : Core) : List Nat := c.waves.map (fun e => e.2.uid) ++ c.ops.map (·.uid)
/-- The clusters of a partition stop for a save, its command core's with them (R194, R224). -/
def State.holdClusters (s : State) (p : Part) : State :=
  (p.clusters ++ [p.cmd + 96]).foldl (fun s c => s.updCluster c (fun x => { x with sync := if s.inCycle c then x.sync else x.sync.paused })) s
/-- Nothing of a core keeps a save of waves waiting: its hold counts, none of them is in trap mode and, outside DET, none has an operation in
flight (R194). -/
def State.still (s : State) (core : Nat) (uids : List Nat) : Bool :=
  let c := s.core core
  c.sync != .behind && c.waves.all (fun e => !(uids.contains e.2.uid) || e.2.trap.isNone) && (s.isDet core || c.ops.all (fun o => !(uids.contains o.uid)))
/-- The number of the partition's next reading at a save, by a commit (R329, R350). -/
def State.snapshot (s : State) (part : Nat) : Nat × State :=
  let s := s.commit
  ((NMap.getD s.pack.banks EBank.zero part).seq, s)
/-- A save begins: its header is written with VALID clear. An emergency save commits first, and its header names that reading
(R329, R347). A node save waits for what its stream has under way, without waking it (R328). -/
def State.beginSave (s : State) (p : Part) (kind : Nat) : State :=
  let s := s.updPart p.num (fun p => { p with saving := kind, saveSeq := p.saveSeq + 1 })
  let r := if kind = 3 then s.snapshot p.num else ((NMap.getD s.pack.banks EBank.zero p.num).seq, s)
  let s := r.2
  let s := p.everyCore.foldl (fun s c => s.holdCore c (if kind = 1 then [] else (s.core c).uids)) ((s.updPart p.num (fun p => { p with saveRef := r.1 })).holdClusters p)
  match NMap.get? s.parts p.num with
  | some p => { s with mem := putImage s.mem p p.ctxbase.toNat (s.header p kind (p.sliceAt s.timeNs) r.1 false), fresh := s.fresh + 1024 }
  | none => s
/-- A cluster gives up a context's work and keeps its own clock and health. -/
def Cluster.vacate (cl : Cluster) : Cluster :=
  { cl.takeBreq with
            grid := none, arrays := cl.arrays.map (fun e => (e.1, MArray.reset)), bind := [], rel := [], paired := false, winIc := 0,
            tasks := [], sides := [], empties := [], copies := [], det := false, ratio := .x1 }
/-- A core gives up a context's work. -/
def Core.vacate (c : Core) : Core := { Core.reset with utlb := c.utlb }
/-- A running task goes back to its last commit point (R224). Assumption 53. -/
def Task.stop (t : Task) (det : Bool) : Task := if det || t.done || t.arr.isNone then t else { t with left := unitTime t.words }
/-- The context leaves the partition: its work is kept, and the partition is free for the next one. What the slots of a whole save do not
place is kept with its area, by the home address of the header (assumption 10). Assumption 53. -/
def State.keepContext (s : State) (p : Part) (kind : Nat) (next : Option Nat) : State :=
  let w := s.wave (768 + p.cmd) 0
  let forced := kind != 1
  let keep : CtxSave :=
    { kind := kind, pc := (w.split 0).pc, s := w.s, cmd := some w,
      cores := if forced then (p.allCores.map (fun c => (c, s.core c))) else [],
      clusters := if forced then p.clusters.map (fun c => (c, { s.cluster c with tasks := (s.cluster c).tasks.map (fun t => t.stop (s.cluster c).det) })) else [],
      grids := s.grids.filter (fun g => g.part == p.num), seq := p.saveSeq }
  let s := if forced then
      let s := p.allCores.foldl (fun s c => s.updCore c Core.vacate) s
      let s := p.clusters.foldl (fun s c => s.updCluster c Cluster.vacate) s
      let s := match translate s.mem p p.ctxbase.toNat .rd with
        | .ok pa _ => s.updPack (fun k => { k with areas := NMap.put k.areas pa keep })
        | _ => s
      { s with grids := s.grids.filter (fun g => g.part != p.num) }
    else p.allCores.foldl (fun s c => s.release c) s
  let s := s.updCore (768 + p.cmd) Core.vacate
  s.updPart p.num (fun p => { p with
    ctxs := p.ctxs.map (fun x : Ctx => if some x.num = p.run then { x with save := some keep, base := p.ctxbase, node := p.node } else x),
    run := none, next := next, saving := 0 })
/-- A save whose cores stand still is written in order, the header's VALID last (R329). -/
def State.endSave (s : State) (p : Part) : State :=
  let s := if p.saving = 1 then s else s.putSlots p p.ctxbase.toNat p.saving
  let r := if p.saving = 3 then (p.saveRef, s) else s.snapshot p.num
  let s := r.2
  let s := { s with mem := putImage s.mem p p.ctxbase.toNat (s.header p p.saving (p.sliceAt s.timeNs) r.1 true), fresh := s.fresh + 1024 }
  s.keepContext p p.saving (if p.saving = 3 then p.run else p.run.bind p.after)
/-- A forced save is due: no NODE has issued by Tend + G (R328). -/
def State.forcedDue (s : State) (p : Part) : Bool :=
  match p.tend with | some t => decide (t + p.graceNs ≤ s.timeNs) | none => false
/-- A forced save begins when due; a save under way ends when its cores stand still (R194, R328, R347). -/
def execForcedSave (part : Nat) (s : State) : Out :=
  .next (match NMap.get? s.parts part with
    | none => s
    | some p =>
      if p.saving = 0 then (if p.run.isSome && s.forcedDue p then s.beginSave p 2 else s)
      else if p.everyCore.all (fun c => s.still c (s.core c).uids) && p.clusters.all (fun c => (s.cluster c).sync != .behind) then s.endSave p else s)

/-! ### Restoring from the slots (R194, R224, R329)

What a slot's layout places is read back from it, where it can be read; what the manual leaves unplaced in it goes on as it was kept
(assumption 10). -/

def word32 (bs : List Byte) (n : Nat) : Nat := leNat ((bs.drop (4 * n)).take 4)
/-- Elements of n lanes from their image, keyed from `at'` on. -/
def vecLoad (at' n : Nat) (bs : List Byte) : VMap :=
  (List.range n).filterMap (fun k => if word32 bs k = 0 then none else some (at' + k, BitVec.ofNat 32 (word32 bs k)))
/-- A wave as its slot holds it: header and latches, registers 0 to 119 and registers 120 on (Table 7.5). -/
def Wave.reload (w : Wave) (fr : Nat) (hd vec : List Byte) (hi : Option (List Byte)) : Wave :=
  let q := byteWord hd
  let low := 64 * Nat.min w.nv 120
  { w with
    retc := q 1, rngidx := (q 2).truncate 48, rngseed := q 3, aflg := (q 4).truncate 6, rowlog := (q 5).truncate 3,
    rbase := BitVec.ofNat 5 (bitsNat (q 5).toNat 8 5), stalled := BitVec.ofNat 32 (bitsNat (q 5).toNat 32 32),
    flags := (List.range 12).foldl (fun m i => NMap.putD m 0 i (leNat ((hd.drop 0x38).take 16) / 2 ^ (6 * i) % 64)) [],
    p := (List.range 7).foldl (fun m i => RMap.wr m (i + 1) (q (9 + i))) [],
    s := (List.range 64).foldl (fun m i => RMap.wr m i (q (160 + i))) [],
    v := vecLoad 0 low vec ++ (match hi with | some b => vecLoad low (64 * w.nv - low) b | none => w.v.filter (fun e => decide (low ≤ e.1))),
    splits := w.splits.map (fun e => (e.1, e.2.reload fr (fun k l => q (256 + 64 * k + l)) (fun k => q (144 + k)))) }
/-- The pending results of a wave's operations under DET, from their units. -/
def reloadOps (uid : Nat) (img : List Byte) : Nat → List VarOp → List VarOp
  | _, [] => []
  | k, o :: r =>
    if o.uid != uid then o :: reloadOps uid img k r
    else
      let val := fun (q : Req) => match o.kind.dest with
        | .v _ none => word32 img (64 * k + q.lane)
        | .v _ (some _) => word32 img (64 * k + q.lane) + 2 ^ 32 * word32 img (64 * (k + 1) + q.lane)
        | _ => word32 img (64 * k) + 2 ^ 32 * word32 img (64 * k + 1)
      let n := unitsOf o.kind.dest
      { o with reqs := o.reqs.map (fun q : Req => if q.done && !q.err && decide (0 < n) && decide (k + n ≤ 8) then { q with val := val q } else q) } ::
        reloadOps uid img (k + n) r
/-- A core's queues and tags from its core-state slot (Table 7.6), and its scratchpad; `qs` the queues that lie in the slot. -/
def Core.reload (c : Core) (cs sp : List Byte) : Core :=
  let q := fun (n : Nat) =>
    let x := word32 cs (0x2000 + n)
    { bound := if x.testBit 31 then some (bitsNat x 16 5) else none, head := x % 8,
      ents := (List.range (bitsNat x 3 4)).map (fun i =>
        let slot := (x % 8 + i) % 8
        { slot := slot, filled := !(x.testBit (8 + slot)), data := vecLoad 0 64 (cs.drop (0x800 * n + 0x100 * slot)) }) : OpQueue }
  { c with
    tags := byteWord cs 0x1008, tagerr := byteWord cs 0x1009, queues := c.queues.map (fun e => (e.1, q e.1)),
    scratch := (List.range sp.length).filterMap (fun a => if sp.getD a 0#8 = 0#8 then none else some (a, sp.getD a 0#8)),
    rows := (List.range (sp.length / 256)).map (fun k => (k, true)) }
/-- A copy command from its entry. -/
def CopyCmd.reload (c : CopyCmd) (e : List Byte) (det : Bool) : CopyCmd :=
  { c with words := (List.range c.words.length).map (byteWord e), done := (byteWord e 13).toNat, rem := if det && c.started then (byteWord e 14).toNat else c.rem }
/-- The matrix stores, carries and tasks of a cluster from its matrix slot (Table 9.10). -/
def Cluster.reloadMatrix (cl : Cluster) (b : List Byte) : Cluster :=
  { cl with
    arrays := cl.arrays.map (fun e => (e.1, { e.2 with acc := vecLoad 0 32768 (b.drop (131072 * e.1)), carry := vecLoad 0 4096 (b.drop (524288 + 16384 * e.1)) })),
    tasks := (List.range cl.tasks.length).filterMap (fun k => cl.tasks[k]?.map (fun t =>
      let r := b.drop (589824 + 64 * k)
      let w := BitVec.ofNat 64 ((byteWord r 0).toNat % 2 ^ 52 + (t.words.getD 0 0#64).toNat / 2 ^ 52 * 2 ^ 52) :: (List.range 7).map (fun j => byteWord r (j + 1))
      { t with words := w, unit := (byteWord r 0).toNat / 2 ^ 52, ptag := (recTags w).1, ctags := (recTags w).2 })) }
/-- A wave reloaded from its slot; `hi` is the place of its registers 120 on. -/
def State.reloadWave (s : State) (p : Part) (va : Nat) (det : Bool) (hi : Option Nat) (w : Wave) : Wave :=
  match vaBytes s.mem p 64 va 10240, vaBytes s.mem p 256 (va + 0x2800) (256 * Nat.min w.nv 120) with
  | some hd, some vec => w.reload (w.slotBase det) hd vec (hi.bind (fun o => vaBytes s.mem p 16 (va + o) (256 * (w.nv - 120))))
  | _, _ => w
/-- The pending results of a wave's operations reloaded. -/
def State.reloadPending (s : State) (p : Part) (va : Nat) (w : Wave) (ops : List VarOp) : List VarOp :=
  match vaBytes s.mem p 16 (va + 0x9800) 2048 with | some b => reloadOps w.uid b 0 ops | none => ops
/-- A core's own state reloaded from its two slots. -/
def State.reloadCore (s : State) (p : Part) (state scratch : Nat) (c : Core) : Core :=
  match vaBytes s.mem p 512 state 65536, vaBytes s.mem p 2048 scratch (c.size * 1024) with
  | some cs, some sp => c.reload cs sp
  | _, _ => c
/-- Every slot of a core of logical cluster k, read back into what was kept. -/
def State.restoreCore (s : State) (p : Part) (base k core : Nat) (det : Bool) : State :=
  let c := s.core core
  let slot := fun w => ctxSlot base k (core % 8) w
  let at' := ctxSlot base k (core % 8) 32
  let ops := if det then c.waves.foldl (fun l e => s.reloadPending p (slot e.1) e.2 l) c.ops else c.ops
  let c := { c with waves := c.waves.map (fun e => (e.1, s.reloadWave p (slot e.1) det (some hiSlot) e.2)), ops := ops }
  s.setCore core (s.reloadCore p at' (at' + 65536) c)
/-- Copy commands and matrix state of logical cluster k, read back. -/
def State.restoreCluster (s : State) (p : Part) (base k cluster : Nat) : State :=
  let cl := s.cluster cluster
  let det := cl.det
  let entry := fun (c : CopyCmd) => (indexOf? ((cl.copiesOf c.core).map (·.1.id)) c.id).bind (fun j =>
    vaBytes s.mem p 4 (ctxSlot base k (c.core % 8) 32 + 0x8400 + 128 * j) 128)
  let cl := { cl with copies := cl.copies.map (fun c : CopyCmd => match entry c with | some e => c.reload e det | none => c) }
  s.setCluster cluster (match vaBytes s.mem p 4096 (base + 0x1000 + k * (13656 * 1024) + 13056 * 1024) 614400 with
    | some b => cl.reloadMatrix b
    | none => cl)

/-! ### NODE and the next context (R312, R317, R327 to R329) -/

/-- The results of a split are in the bank: a node save holds the values its stream's bundles leave. Assumption 78. -/
def State.settleWin (s : State) (core w split : Nat) : State :=
  let wv := s.wave core w
  let s := ((wv.split split).win ++ wv.drain).foldl (fun s r => s.bank core w r.dest r.live r.id r.vals) s
  s.updWave core w (fun wv => { wv.updSplit split (fun sp => { sp with win := [] }) with drain := [] })
/-- Results on their way to s8 to s63 and p1 to p7 are dead (R53, R317). -/
def FRes.nodeKill (r : FRes) : FRes :=
  match r.dest with | .s n => if 8 ≤ n then { r with live := 0#64 } else r | .p _ => { r with mask := 0#64, live := 0#64 } | _ => r
/-- NODE: scalars and predicates clear, the node register of the header is written, and at the slice's end a save of the context begins
(R317, R328). -/
def execNode (n : BitVec 24) (s : State) : Out :=
  s.slotOp nodeBad (fun i =>
    let s := s.updIss i (fun w => { w.updSplit i.split (fun sp => { sp with win := sp.win.map FRes.nodeKill }) with
      s := w.s.filter (fun e => decide (e.1 < 8)), p := [], drain := w.drain.map FRes.nodeKill })
    match s.partOf i.core with
    | none => s
    | some p =>
      let s := s.updPart p.num (fun p => { p with node := n.toNat })
      let s := { s with mem := putImage s.mem p (p.ctxbase.toNat + 0x50) (natLE 8 n.toNat) }
      match p.tend, NMap.get? s.parts p.num with
      | some t, some p =>
        if s.timeNs < t then s else (s.settleWin i.core i.wave i.split).beginSave p 1
      | _, _ => s)

/-- The wave of a command stream (R311, R312): carried where the driver named a stream of Beyrum words (assumption 96). -/
def Part.stream (p : Part) (uid : Nat) (c : Ctx) : Wave :=
  let bey := c.bey
  { Wave.dead with
    uid := uid, carried := bey, nv := 0, ns := 64,
    s := RMap.wr (RMap.wr [] 0 (BitVec.ofNat 64 p.num)) 1 (BitVec.ofNat 64 c.num),
    splits := [(0, Split.start 0 (c.entry.toNat / (if bey then 8 else 32)) (BitVec.allOnes 64) 0)], nextAge := 1, exited := false }
/-- VALID of a control word or header in memory. -/
def State.validAt (s : State) (p : Part) (va : Nat) : Bool := match vaLoad s.mem p va 8 with | some x => x.testBit 0 | none => false
/-- A slot's control word is valid and names the launch: register counts, DET and CLKRATIO (R194). -/
def State.slotValid (s : State) (p : Part) (va : Nat) (w : Wave) (cl : Cluster) : Bool :=
  match vaLoad s.mem p va 8 with
  | some x => x.testBit 0 && bitsNat x 4 18 == bitsNat (ctrlWord 0 w.nv w.ns cl.det cl.ratio 0 true) 4 18
  | none => false
/-- Whether a save can be restored: its header and every slot are whole (R194, R329). -/
def State.whole (s : State) (p : Part) (c : Ctx) (k : CtxSave) : Bool :=
  s.validAt p c.base.toNat &&
  (k.kind == 1 || k.cores.all (fun e =>
    let cl := NMap.getD k.clusters Cluster.reset (e.1 / 8)
    e.2.waves.all (fun w => s.slotValid p (ctxSlot c.base.toNat ((indexOf? p.clusters (e.1 / 8)).getD 0) (e.1 % 8) w.1) w.2 cl)))
/-- A cluster takes a context's work back. Outside its own issue cycle (`late`), its next one counts nothing (R194). -/
def Cluster.restore (cl k : Cluster) (late : Bool) : Cluster :=
  Cluster.unboost { cl with
            sync := if late then .ahead else .even, grid := k.grid, arrays := k.arrays, bind := k.bind, rel := k.rel, paired := k.paired, winIc := k.winIc, tasks := k.tasks,
            sides := k.sides, empties := k.empties, copies := k.copies, det := k.det, ratio := k.ratio, latS := k.latS, latW := k.latW }
/-- A context whose restore was refused does not resume: its grids report CTXBAD (R194, R316, R329). -/
def Part.refuse (p : Part) (c : Nat) : Part :=
  { p with ctxs := p.ctxs.map (fun x : Ctx => if x.num = c then
      { x with hold := true, save := x.save.map (fun k : CtxSave => { k with grids := k.grids.map (fun g : Grid => if g.err = 0 then { g with err := 0x12 } else g) }) }
    else x) }
/-- The command stream's wave with the PC and s0 to s7 its header holds (R329, Table 15.6). -/
def State.headerStream (s : State) (p : Part) (base : Nat) (w : Wave) : Wave :=
  let rd := fun o => (vaLoad s.mem p (base + o) 8).getD 0
  { (w.updSplit 0 (fun sp => { sp with pc := rd 8 })) with
    s := (List.range 8).foldl (fun m j => RMap.wr m j (BitVec.ofNat 64 (rd (0x10 + 8 * j)))) w.s }
/-- The grids of a whole save, with the launch records their header holds (R329, Table 15.6); their launch latency is over. -/
def State.headerGrids (s : State) (p : Part) (base : Nat) : Nat → List Grid → List Grid
  | _, [] => []
  | j, g :: r =>
    let rd := fun k => vaLoad s.mem p (base + 0x470 + 128 * j + 8 * k) 8
    { g with record := (List.range 16).map (fun k => if k < 14 then ((rd k).map (BitVec.ofNat 64)).getD (g.record.getD k 0#64) else g.record.getD k 0#64),
             next := (rd 14).getD g.next, ran := (rd 15).getD g.ran, armed := true } :: State.headerGrids s p base (j + 1) r
/-- The wave of a stream that goes on over a node save, from the wave that starts anew: its RNGIDX, AFLG, RETC and seed continue (R30, R40,
R140), kept beside the header, in which they have no place (assumption 79). -/
def Wave.nodeResume (fresh : Wave) (old : Option Wave) : Wave :=
  match old with
  | some w => { fresh with rngidx := w.rngidx, aflg := w.aflg, retc := w.retc, rngseed := w.rngseed, stalled := w.stalled }
  | none => fresh
/-- A WAITA deadline under DET, counted in the cluster's ic, moved by the time the context was away (R185, R365). -/
def VarOp.later (o : VarOp) (now old : Nat) : VarOp :=
  { o with kind := match o.kind with
    | .waita d c z dl e => .waita d c z (dl.map (fun t => t + now - old)) e
    | k => k }
/-- The 10 ms of the RECV holds that came back with a core go on: their tests come now, and again until the time is over (R380). -/
def State.recvTimers (s : State) (core : Nat) : State :=
  (s.core core).ops.foldl (fun s o => if o.heldFrom.isSome then s.schedule 0 (.recvHoldTimeout core o.id) else s) s
/-- A context's stream or its whole state starts on the partition (R312, R329). A refused context is reported to the driver (assumption 87). -/
def State.enter (s : State) (p : Part) (c : Ctx) : State :=
  let cmd := 768 + p.cmd
  let start := fun (s : State) => s.updPart p.num (fun p => { p with
    run := some c.num, next := none, since := s.timeNs, ctxbase := c.base, node := c.node,
    ctxs := p.ctxs.map (fun x : Ctx => if x.num = c.num then { x with save := none } else x) })
  let fresh := p.stream s.nextId c
  match c.save with
  | none => start ({ s with nextId := s.nextId + 1 }.updCore cmd (fun k => { k with waves := [(0, fresh)], hold := false }))
  | some k =>
    if !(s.whole p c k) then
      ((s.updPart p.num (fun p => { p.refuse c.num with next := (p.refuse c.num).after c.num })).applyHeld p.num).emit (.ctxbad p.num c.num)
    else if k.kind = 1 then
      let rd := fun o => (vaLoad s.mem p (c.base.toNat + o) 8).getD 0
      let w := { fresh.nodeResume k.cmd with
        s := (List.range 8).foldl (fun m j => RMap.wr m j (BitVec.ofNat 64 (rd (0x10 + 8 * j)))) [],
        splits := [(0, Split.start 0 (rd 8) (BitVec.allOnes 64) 0)] }
      start ({ s with nextId := s.nextId + 1 }.updCore cmd (fun k => { k with waves := [(0, w)], hold := false }))
    else
      let old := fun core => ((NMap.get? k.clusters (core / 8)).map (·.ic)).getD 0
      let s := k.cores.foldl (fun s e => s.updCore e.1 (fun c => { e.2 with
        hold := false, sync := .even, utlb := c.utlb, waves := e.2.waves.map (fun x : Nat × Wave => (x.1, x.2.pass ((s.cluster (e.1 / 8)).ic - old e.1))), ops := e.2.ops.map (fun o => o.later (s.cluster (e.1 / 8)).ic (old e.1)) })) s
      let s := k.clusters.foldl (fun s e => s.updCluster e.1 (fun cl => cl.restore e.2 (!(s.inCycle e.1)))) s
      let s := k.clusters.foldl (fun s e => match indexOf? p.clusters e.1 with
        | some j => (List.range 8).foldl (fun s i => s.restoreCore p c.base.toNat j (8 * e.1 + i) e.2.det) (s.restoreCluster p c.base.toNat j e.1)
        | none => s) s
      let s := k.cores.foldl (fun s e => s.recvTimers e.1) s
      let s := s.updCluster (p.cmd + 96) (fun cl => { cl with sync := if s.inCycle (p.cmd + 96) then .even else .ahead })
      let s := { s with grids := s.grids ++ s.headerGrids p c.base.toNat 0 k.grids }
      let s := match k.cmd with | some w => s.updCore cmd (fun k => { k with waves := [(0, s.headerStream p c.base.toNat w)], hold := false, sync := .even }) | none => s
      start s
/-- After a save has completed the next context is restored and starts; a partition in thermal hold waits (R328, R347). -/
def execContextSwitch (part : Nat) (s : State) : Out :=
  .next (match NMap.get? s.parts part with
    | none => s
    | some p =>
      if p.run.isSome || p.saving != 0 || p.thermal || p.scrub.isSome || s.running part then s
      else match p.next.bind (fun c => p.ctxs[c]?) with
        | some c => s.enter p c
        | none => s)
/-- The cores of the logical cores that a save names by the numbers of the partition it was made on. -/
def renumber (old new : List Nat) (c : Nat) : Nat := ((indexOf? old c).bind (fun j => new[j]?)).getD c
def BlkSt.moved (f : Nat → Nat) : BlkSt → BlkSt
  | .on c => .on (f c)
  | .savedOn c => .savedOn (f c)
  | x => x
def Grid.moved (g : Grid) (part : Nat) (f : Nat → Nat) : Grid :=
  { g with part := part, place := g.place.map (·.map f), cores := g.cores.map f, started := g.started.map f,
           blocks := g.blocks.map (fun e => (e.1, e.2.moved f)), gone := g.gone.map (fun e => (e.1, e.2.1, e.2.2.1, f e.2.2.2)) }
def Cluster.moved (c : Cluster) (f : Nat → Nat) : Cluster :=
  { c with tasks := c.tasks.map (fun t : Task => { t with core := f t.core }), sides := c.sides.map (fun o : SideOp => { o with core := f o.core }),
           empties := c.empties.map (fun o : EmptyOp => { o with core := f o.core }), copies := c.copies.map (fun o : CopyCmd => { o with core := f o.core }) }
/-- A kept context on the cores of a partition, in logical order (R193, R319). -/
def CtxSave.moved (k : CtxSave) (p : Part) : CtxSave :=
  let f := renumber (k.cores.map (·.1)) p.allCores
  let g := renumber (k.clusters.map (·.1)) p.clusters
  { k with cores := k.cores.map (fun e => (f e.1, e.2)), clusters := k.clusters.map (fun e => (g e.1, e.2.moved f)),
           grids := k.grids.map (fun x : Grid => x.moved p.num f) }
/-- The context a save area holds, for a restore the driver asks for: none if VALID is clear (R329, R347). The header of a node save is all of
it. Of a whole save the slots hold what they place and the model has kept the rest, if the area stands where a save of that number
wrote it (assumption 10). -/
def State.stored (s : State) (p : Part) (r : CtxReq) : Option Ctx :=
  let rd := fun o => (vaLoad s.mem p (r.saveBase.toNat + o) 8).getD 0
  let save : Option CtxSave :=
    if (rd 0).testBit 0 = false then none
    else if bitsNat (rd 0) 1 2 = 1 then
      some { kind := 1, pc := rd 8, s := [], cmd := none, cores := [], clusters := [], grids := [], seq := rd 0 / 2 ^ 32 }
    else match translate s.mem p r.saveBase.toNat .rd with
      | .ok pa _ => ((NMap.get? s.pack.areas pa).filter (fun k => k.seq % 2 ^ 32 == rd 0 / 2 ^ 32 && k.clusters.length == p.clusters.length)).map (·.moved p)
      | _ => none
  save.map (fun k => { num := r.ctx, entry := r.entry, base := r.saveBase, node := rd 0x50, hold := false, save := some k, bey := r.bey })
/-- The driver creates a context of a partition: up to 16; the first one starts (R312, R327). One that is to go on from a save area is
refused with CTXBAD if the area holds none (R347). A package without its rails does not answer (R346). -/
def execContextCreation (r : CtxReq) (s : State) : Out :=
  .next (if s.pack.power = .off then s else match NMap.get? s.parts r.part with
    | none => s.emit (.refused r.part)
    | some p =>
      if r.ctx ≠ p.ctxs.length ∨ 16 ≤ p.ctxs.length ∨ r.saveBase.toNat % 4096 ≠ 0 then s.emit (.refused r.part)
      else
        let new : Ctx := { num := r.ctx, entry := r.entry, base := r.saveBase, node := 0, save := none, hold := false, bey := r.bey }
        match (if r.restore then s.stored p r else some new) with
        | none => s.emit (.ctxbad r.part r.ctx)
        | some c => (s.updPart r.part (fun p => { p with ctxs := p.ctxs ++ [c], next := if p.run.isNone && p.next.isNone && p.saving == 0 then some r.ctx else p.next })).emit (.accepted r.part))

/-! ### Quantum scheduling (R324) -/

/-- Quantum scheduling is saving a block of a grid away. -/
def State.swapping (s : State) (grid : Nat) : Bool := s.cores.any (fun e => e.2.grid == some grid && e.2.leaving.isSome)
/-- A block has earned its quantum on a core while a block of its grid waits, to be placed or to come back; one block at a time gives
way to the blocks that wait to be placed (R322, R324). -/
def State.expired (s : State) (core : Nat) : Option (Grid × Nat) :=
  let c := s.core core
  (c.grid.bind s.grid?).bind (fun g =>
    match NMap.get? s.parts g.part with
    | none => none
    | some p =>
      if c.leaving.isSome then c.leaving.map (fun b => (g, b))
      else if g.quantum && ((g.waiting && !(s.swapping g.id)) || c.saved.any (fun b => b.grid == g.id)) then
        (c.earned.find? (fun e => decide (p.quant.toNat ≤ e.2))).map (fun e => (g, e.1))
      else none)
/-- The placed blocks of a block's gang, with their cores. -/
def Grid.gangOn (g : Grid) (block : Nat) (saved : Bool) : List (Nat × Nat) :=
  match g.gangs.find? (fun x => decide (x.1 ≤ block) && decide (block < x.1 + x.2)) with
  | none => []
  | some x => g.blocks.filterMap (fun e => if x.1 ≤ e.1 ∧ e.1 < x.1 + x.2 then
      (match e.2 with | .on c => if saved then none else some (e.1, c) | .savedOn c => if saved then some (e.1, c) else none | _ => none) else none)
/-- Base of a block's save area. -/
def Grid.saveArea (g : Grid) (block : Nat) : Nat := g.word 13 + block * (40 * g.waves + 64 + g.scratch) * 1024
/-- One block leaves its core: its slots are written and its state is kept. -/
def State.saveBlock (s : State) (g : Grid) (p : Part) (x : Nat × Nat) : State :=
  let c := s.core x.2
  let cl := s.cluster (x.2 / 8)
  let ws : NMap Wave := c.waves.filter (fun e => e.2.grid == g.id && e.2.block == x.1)
  let slots : List Nat := ws.map (·.1)
  let uids := ws.map (fun e => e.2.uid)
  let kept : SavedBlock :=
    { grid := g.id, block := x.1, waves := ws, scratch := c.scratch, rows := c.rows,
      queues := c.queues.filter (fun e => match e.2.bound with | some b => slots.contains b | none => false),
      ops := c.ops.filter (fun o => uids.contains o.uid), tags := c.tags, tagerr := c.tagerr }
  let base := g.saveArea x.1
  let m := ws.foldl (fun m e => putWave m p (base + e.2.widx * 40960) (ctrlWord 2 e.2.nv e.2.ns cl.det cl.ratio p.saveSeq true) e.2 none none) s.mem
  let m := putImage m p (base + g.waves * 40960) (coreImage { c with queues := kept.queues } (cl.copiesOf x.2) cl.det s.fresh)
  let m := putImage m p (base + (g.waves * 40 + 64) * 1024) ((List.range (c.size * 1024)).map (fun a => c.spRaw a))
  let s := { s with mem := m, fresh := s.fresh + 4096 }.updCore x.2 (fun c => { c with
    waves := c.waves.filter (fun e => !(slots.contains e.1)), queues := c.queues.filter (fun e => match e.2.bound with | some b => !(slots.contains b) | none => true),
    ops := c.ops.filter (fun o => !(uids.contains o.uid)), earned := NMap.del c.earned x.1, saved := c.saved ++ [kept], leaving := none })
  (s.release x.2).updGrid g.id (fun g => { g with blocks := NMap.put g.blocks x.1 (.savedOn x.2) })
/-- The waves of a block on a core. -/
def Core.blockUids (c : Core) (grid block : Nat) : List Nat := (c.waves.filter (fun e => e.2.grid == grid && e.2.block == block)).map (fun e => e.2.uid)
/-- The quantum of a block runs out while a block of its grid waits: issue stops on its gang's cores, and once they stand
still the gang is saved and the next one placed (R324). -/
def execQuantumExpiry (core : Nat) (s : State) : Out :=
  .next (match s.expired core with
    | none => s
    | some (g, b) =>
      match NMap.get? s.parts g.part with
      | none => s
      | some p =>
        let gang := g.gangOn b false
        if p.saving ≠ 0 then s
        else if gang.isEmpty then (s.release core).updCore core (fun c => { c with leaving := none })
        else if (s.core core).leaving.isNone then gang.foldl (fun s x =>
          (s.updCore x.2 (fun c => { c with leaving := some x.1 })).holdCore x.2 ((s.core x.2).blockUids g.id x.1)) s
        else if gang.all (fun x => s.still x.2 ((s.core x.2).blockUids g.id x.1)) then
          let s := gang.foldl (fun s x => s.saveBlock g p x) s
          (match (s.grid? g.id).bind (fun g => (s.nextGang g).map (fun l => (g, l))) with
            | some (g, l) => s.placeGang g l
            | none => s)
        else s)
/-- A saved block can take its slots again. -/
def State.canResume (s : State) (g : Grid) (x : Nat × Nat) : Bool :=
  let c := s.core x.2
  match c.saved.find? (fun b => b.grid == g.id && b.block == x.1) with
  | some b => decide (g.onHere x.2 < g.perCore) && s.regRoom g x.2 b.waves.length && b.waves.all (fun e => (NMap.get? c.waves e.1).isNone) && c.waves.all (fun e => e.2.grid == g.id) && !c.hold
  | none => false
/-- A saved block resumes as it was, with what its slots place read back (R194, R324): between two cycles of its cluster the next one counts
nothing for it. Where a core holds more than one block, its tags are those of all of them and stay as they stand (DESIGN CHOICE, assumption 86). -/
def State.resumeBlock (s : State) (g : Grid) (x : Nat × Nat) : State :=
  match (s.core x.2).saved.find? (fun b => b.grid == g.id && b.block == x.1) with
  | none => s
  | some b =>
    let base := g.saveArea x.1
    let b : SavedBlock := match s.partOf x.2 with
      | none => b
      | some p =>
        let c := s.reloadCore p (base + g.waves * 40960) (base + (g.waves * 40 + 64) * 1024)
          { (s.core x.2) with queues := b.queues, scratch := b.scratch, rows := b.rows, tags := b.tags, tagerr := b.tagerr }
        { b with waves := b.waves.map (fun e => (e.1, s.reloadWave p (base + e.2.widx * 40960) (s.isDet x.2) none e.2)), queues := c.queues, scratch := c.scratch,
                 rows := c.rows, tags := c.tags, tagerr := c.tagerr }
    let alone := g.perCore == 1
    let waves := if s.inCycle (clusterOf x.2) then b.waves else b.waves.map (fun e => (e.1, e.2.untick true))
    let s := s.updCore x.2 (fun c => { c with
      waves := waves.foldl (fun m e => NMap.put m e.1 e.2) c.waves, scratch := b.scratch, rows := b.rows,
      queues := b.queues.foldl (fun m e => NMap.put m e.1 e.2) c.queues, ops := c.ops ++ b.ops,
      tags := if alone then b.tags else c.tags, tagerr := if alone then b.tagerr else c.tagerr,
      earned := NMap.put c.earned x.1 0, saved := c.saved.filter (fun y => !(y.grid == g.id && y.block == x.1)) })
    s.updGrid g.id (fun g => { g with blocks := NMap.put g.blocks x.1 (.on x.2) })
/-- The oldest saved block of a core resumes with its gang, unplaced blocks going first; a slot that is not whole is
refused with CTXBAD (R194, R324). -/
def execBlockResume (core : Nat) (s : State) : Out :=
  .next (match (s.core core).saved with
    | [] => s
    | b :: _ =>
      match s.grid? b.grid, s.partOf core with
      | some g, some p =>
        let gang := g.gangOn b.block true
        if g.waiting || p.saving != 0 || !(gang.all (fun x => s.canResume g x)) then s
        else if b.waves.all (fun e => s.slotValid p (g.saveArea b.block + e.2.widx * 40960) e.2 (s.cluster (core / 8))) then gang.foldl (fun s x => s.resumeBlock g x) s
        else s.gridErr g.id 0x12
      | _, _ => s)

/-! ### Partitions (R325) -/

/-- A partition as it is allocated: command registers at reset (Table 15.1). Assumption 19. -/
def Part.new (r : AllocReq) (clusters : List Nat) : Part :=
  { num := r.slot, islands := r.islands, clusters := clusters, cmd := r.cmdCore, wins := r.wins, cisBase := r.cisBase, cisLen := r.cisLen,
    stage := r.staging, acc := r.acc, peers := r.peers, ring := r.ring, ringPos := 0, scrub := some 0, lstat := 0#64, trapvec := 0#64,
    ctxbase := 0#64, slice := BitVec.ofNat 64 (200 * 2 ^ 32), epoch := 0#64, overrun := 0#64, inva := 0#64, invlen := 0#64, invBusy := false,
    quant := 65536#64, imgdst := 0#64, imgload := 0#64, imgBusy := false, imgstat := 0#64, ptroot := 0#64, tcache := 0#64, held := [],
    intPend := 0#64, codes := [], transl := [], ctxs := [], run := none, since := 0, next := none, saving := 0, node := 0, seqLaunch := 0,
    saveSeq := 0, thermal := false }
def unit30 : Nat := 2 ^ 30
/-- Bytes of a stack that windows may take: each pseudo-channel retired beyond 2 removes 750,000,000 from its top (R355). Assumption 58. -/
def Pack.stackBytes (p : Pack) (st : Nat) : Nat :=
  48000000000 - 750000000 * ((p.retired.filter (fun x => decide (2000 + 64 * st ≤ x) && decide (x < 2064 + 64 * st))).length - 2)
/-- A request the management core accepts (R325, R357, R369): free slot, islands, command core and windows. Assumption 59. -/
def State.allocOk (s : State) (r : AllocReq) (clusters : List Nat) : Bool :=
  s.pack.power == .on && decide (r.slot < 8) && (NMap.get? s.parts r.slot).isNone && !r.islands.isEmpty && r.islands.all (fun i => decide (i < 24)) &&
  r.islands.all (fun i => clusters.any (fun c => c / 4 == i) && !(s.parts.any (fun e => e.2.islands.contains i))) &&
  decide (r.cmdCore < 8) && !(s.parts.any (fun e => e.2.cmd == r.cmdCore)) && decide (r.wins.length ≤ 64) &&
  r.wins.all (fun w => w.1 % unit30 == 0 && w.2 % unit30 == 0 && decide (0 < w.2) && populated w.1 && populated (w.1 + w.2 - 1) &&
    decide (w.1 / 2 ^ 36 = (w.1 + w.2 - 1) / 2 ^ 36) && decide ((w.1 + w.2 - 1) % 2 ^ 36 < s.pack.stackBytes (w.1 / 2 ^ 36)) && !(s.parts.any (fun e => e.2.wins.any (fun v => decide (v.1 < w.1 + w.2) && decide (w.1 < v.1 + v.2))))) &&
  r.cisBase % 65536 == 0 && r.cisLen % 65536 == 0 && decide (r.cisBase + r.cisLen ≤ 0x400000) &&
  !(s.parts.any (fun e => decide (e.2.cisBase < r.cisBase + r.cisLen) && decide (r.cisBase < e.2.cisBase + e.2.cisLen))) &&
  decide (r.ring + 16 * 192 ≤ r.cisLen) && decide (r.acc < 1024)
/-- Time within which every scrub ends, in ticks (R150, R207). -/
def scrubTicks : Nat := 468 * tpNs
/-- A scrubbed cluster. -/
def Cluster.scrub (cl : Cluster) : Cluster := cl.vacate
/-- The management core allocates a partition: its arrays scrub, its energy bank, cistern window and staging are zeroed (R150, R207,
R282,
R325, R348, R369). Assumption 59. -/
def execPartitionAllocation (r : AllocReq) (s : State) : Out :=
  let clusters := (r.islands.flatMap (fun i => (List.range 4).map (fun k => 4 * i + k))).filter (fun c => !(s.pack.retired.contains c))
  let clusters := (List.range 96).filter (fun c => clusters.contains c)
  .next (if s.pack.power = .off then s else if !(s.allocOk r clusters) then s.emit (.refused r.slot)
    else
      let lo := cisternBase + r.cisBase
      let s := s.updMem (fun m => { m with home := m.home.filter (fun e => !(decide (lo ≤ e.1) && decide (e.1 < lo + r.cisLen))) })
      let s := s.updMem (fun m => { m with stg := m.stg.filter (fun e => !(r.staging.contains (e.1 / 2 ^ 21))) })
      let s := s.updPack (fun p => { p with banks := NMap.put p.banks r.slot { EBank.zero with seq := (NMap.getD p.banks EBank.zero r.slot).seq, gap := (NMap.getD p.banks EBank.zero r.slot).gap, alloc := p.ns }, served := true })
      let s := { s with parts := NMap.put s.parts r.slot (Part.new r clusters), fresh := s.fresh + 1 }
      let s := s.emit (.accepted r.slot)
      s.schedule (Config.freeNat (s.fresh - 1) % scrubTicks) (.scrubCompletion r.slot))
/-- The scrubs of a partition have ended: cores, arrays and queues are zero, and launches may start (R150, R207). -/
def execScrubCompletion (part : Nat) (s : State) : Out :=
  .next (match NMap.get? s.parts part with
    | none => s
    | some p =>
      if p.scrub.isNone then s
      else
        let s := p.allCores.foldl (fun s c => s.updCore c (fun _ => Core.reset)) s
        let s := p.clusters.foldl (fun s c => s.updCluster c Cluster.scrub) s
        s.updPart part (fun p => { p with scrub := none }))
/-- A partition is freed: its work ends, its bank stays readable (R325, R348). -/
def State.freePart (s : State) (part : Nat) : State :=
  match NMap.get? s.parts part with
  | none => s
  | some p =>
    let s := p.allCores.foldl (fun s c => s.updCore c (fun _ => Core.reset)) s
    let s := s.updCore (768 + p.cmd) (fun _ => Core.reset)
    let s := p.clusters.foldl (fun s c => s.updCluster c Cluster.scrub) s
    let s := { s with clusters := s.clusters.map (fun e : Nat × Cluster => (e.1, { e.2 with tlb := e.2.tlb.filter (fun x => x.part != part) })) }
    let s := s.updPack (fun k => { k with banks := NMap.upd k.banks part (fun b => { b with freed := true }), saves := k.saves.filter (fun x => x.1 != part) })
    { s with parts := NMap.del s.parts part, grids := s.grids.filter (fun g => g.part != part) }
def execPartitionFree (part : Nat) (s : State) : Out := .next (s.freePart part)

end Sys2Proof.Machine
end

