-- ==== Sys2Proof/Machine/Power.lean ====
section
/-! DEFINITION. Clock ladders, power limit, boost permits, slopes and their floors, thermal sensors and emergency saves
(R340 to R347). -/

namespace Sys2Proof.Machine

/-! ### The ladder (R340) -/

/-- Lane clocks of a compute cluster, in MHz, fastest first. -/
def ladder : List Nat := [1120, 1030, 940, 850, 760, 670, 580, 470]
/-- The step below a clock, the lowest staying. -/
def stepDown (f : Nat) : Nat := (ladder.find? (· < f)).getD 470
/-- The step above a clock, up to 940 MHz. -/
def stepUp (f : Nat) : Nat := if 940 ≤ f then f else (ladder.reverse.find? (f < ·)).getD 940
/-- The clock a cluster runs or is about to run. -/
def Cluster.target (cl : Cluster) : Nat := cl.newMhz.getD cl.mhz
/-- A change of step is decided: it takes effect at a bundle boundary no earlier than some ticks from now and within 2 µs (R340). -/
def State.setClockFrom (s : State) (c f lo : Nat) : State :=
  if (s.cluster c).target = f then s
  else { s with fresh := s.fresh + 1 }.updCluster c (fun cl => { cl with newMhz := some f }) |>.schedule (lo + Config.freeNat s.fresh % (2 * tpu - lo)) (.clockStepChange c)
def State.setClock (s : State) (c f : Nat) : State := s.setClockFrom c f 0
/-- A change of step takes effect (R340). -/
def execClockStepChange (cluster : Nat) (s : State) : Out :=
  .next (s.updCluster cluster (fun cl => { cl with mhz := cl.target, newMhz := none }))

/-! ### The power limit (R341) -/

/-- Clusters the controller manages. -/
def State.compute (s : State) : List Nat := (List.range 96).filter (fun c => !(s.pack.retired.contains c))
/-- The average power of the last 1 ms against PLIM (R341). -/
def execPowerAverageWindow (avg _peak : Nat) (s : State) : Out :=
  .next (s.updPack (fun p => { p with overLim := decide (p.plim < avg), underLim := decide (100 * avg ≤ 95 * p.plim) }))
/-- The level of a cluster's sensor. -/
def State.level (s : State) (n : Nat) : Nat := (NMap.getD s.pack.sensors (Sensor.reset n) n).level
/-- Ticks until the last scheduled change of step of some clusters. -/
def State.stepsEnd (s : State) (cs : List Nat) : Nat :=
  s.inputs.foldl (fun m e => match e.2 with | .clockStepChange c => if cs.contains c then Nat.max m (e.1 - s.now) else m | _ => m) 0
/-- Over the limit every cluster above the lowest step falls one step, those of a faster step before those of a slower (R341). -/
def State.fall (s : State) : State :=
  (ladder.foldl (fun (a : State × Nat) f =>
    let cs := s.compute.filter (fun c => (s.cluster c).target == f && decide (470 < f))
    let t := cs.foldl (fun s c => (s.setClockFrom c (stepDown f) a.2).updCluster c (fun cl => { cl with thr := true })) a.1
    (t, Nat.min (2 * tpu - 1) (Nat.max a.2 (t.stepsEnd cs)))) (s, 0)).1
/-- Every 100 µs: each cluster falls one step over the limit, or a throttled one rises one step below it (R341). -/
def execThrottleStep (s : State) : Out :=
  .next (if s.pack.overLim then s.fall
    else s.compute.foldl (fun s c =>
      let f := (s.cluster c).target
      if s.pack.underLim && (s.cluster c).thr && decide (s.level c < 2) then
        (s.setClock c (stepUp f)).updCluster c (fun cl => { cl with thr := decide (stepUp f < 940) })
      else s) s)
/-- PWRCTL is written (Table 16.1): LAST and COUNT are read-only; a limit above 2,000 is taken as 2,000; a field outside its
range keeps its value. Assumption 55. -/
def execPwrctlWrite (v : W64) (s : State) : Out :=
  let x := v.toNat
  .next (s.updPack (fun p =>
    let plim := Nat.min 2000 (bitsNat x 44 12)
    let rearm := bitsNat x 30 7
    let cap := bitsNat x 23 7
    let p := { p with plim := if 400 ≤ plim then plim else p.plim, rearm := if 1 ≤ rearm ∧ rearm ≤ 64 then rearm else p.rearm,
                      cap := if cap ≤ 64 then cap else p.cap }
    { p with count := Nat.min p.count p.cap }))

/-! ### Boost permits (R342, R343) -/

/-- BREQ of a cluster. -/
def Cluster.breq (cl : Cluster) : Bool := cl.boost.getLsbD 0
/-- BOOST of a cluster is written between launches: ARMED is read-only, and a request made while a launch holds the cluster is written
when it has ended (R343, Table 16.10). -/
def execBoostWrite (cluster : Nat) (v : W64) (s : State) : Out :=
  .next (s.updCluster cluster (fun cl =>
    if cl.grid.isSome then { cl with breqNext := some (v.getLsbD 0) }
    else { cl with breqNext := none, boost := (v &&& 1#64) ||| (if cl.armed then 2#64 else 0#64) }))
/-- A cluster has a resident wave. -/
def State.resident (s : State) (c : Nat) : Bool := (List.range 8).any (fun i => !(s.core (8 * c + i)).waves.isEmpty)
/-- An engine operation of a cluster is in flight. -/
def Cluster.engines (cl : Cluster) : Bool := !(cl.copies.isEmpty && cl.tasks.isEmpty && cl.sides.isEmpty && cl.empties.isEmpty)
/-- Eligibility (R342). -/
def State.eligible (s : State) (c : Nat) : Bool :=
  let cl := s.cluster c
  s.resident c && !cl.det && cl.ratio != .half && decide (s.level c < 2) && !s.pack.overLim && !cl.thr
/-- Arming at a boundary: at the first with BREQ, after a denial once the pool holds REARM permits. -/
def Cluster.arm (cl : Cluster) (eligible enough : Bool) : Cluster :=
  let cl := if !eligible then { cl with armed := false, denied := false }
    else if !cl.breq then cl
    else if cl.denied then (if enough then { cl with armed := true, denied := false } else cl)
    else { cl with armed := true }
  { cl with boost := (cl.boost &&& 1#64) ||| (if cl.armed then 2#64 else 0#64) }
/-- Serve the claims in order: each takes a permit, or is denied and disarmed (R342). -/
def State.serve (s : State) (c : Nat) : State :=
  if 0 < s.pack.count then (s.updPack (fun p => { p with count := p.count - 1, last := c })).setClock c 1120
  else (s.updCluster c (fun cl => { cl with armed := false, denied := true, boost := cl.boost &&& 1#64 })).setClock c 1030
/-- A boost interval begins (R342). -/
def execBoostIntervalBoundary (s : State) : Out :=
  let t := s.timeNs
  let idle := s.compute.filter (fun c => !(s.resident c) && !((s.cluster c).engines) &&
    (match NMap.get? s.pack.idle c with | some b => decide (b + 16000 < t) | none => true))
  let s := if t / 4000 % 4 = 0 then s.updPack (fun p => { p with count := Nat.min p.cap (p.count + idle.length) }) else s
  let enough := decide (s.pack.rearm ≤ s.pack.count)
  let s := s.compute.foldl (fun s c => s.updCluster c (fun cl => cl.arm (s.eligible c) enough)) s
  let claims := s.compute.filter (fun c => s.eligible c && (s.cluster c).armed && (s.cluster c).breq)
  let order := claims.filter (fun c => decide (s.pack.last < c)) ++ claims.filter (fun c => decide (c ≤ s.pack.last))
  let s := s.compute.foldl (fun s c => if claims.contains c || decide ((s.cluster c).target ≤ 940) then s else s.setClock c 940) s
  .next (order.foldl (fun s c => s.serve c) s)

/-! ### Current slopes (R254, R344) -/

/-- ISLOPE of a cluster is written between launches, clamped to its island's floor (R344): it is RWL, locked while any grid of the
partition that owns the cluster runs (R8, Table 0.5; assumption 95). -/
def execIslopeWrite (cluster : Nat) (v : W64) (s : State) : Out :=
  .next (if s.parts.any (fun e => e.2.clusters.contains cluster && s.launched e.1) || (s.cluster cluster).grid.isSome then s
    else
      let x := clampSlope (s.floorOf cluster) (bitsNat v.toNat 8 8) (bitsNat v.toNat 0 8)
      s.updCluster cluster (fun cl => { cl with islope := BitVec.ofNat 64 (2 ^ 8 * x.1 + x.2) }))
/-- The power controller sets an island's floor; running launches keep their values (R344). -/
def execIslflrWrite (island : Nat) (v : W64) (s : State) : Out :=
  .next (if island < 24 then s.updPack (fun p => { p with islflr := NMap.put p.islflr island (v &&& 0xFFFF#64) }) else s)

/-! ### Thermal sensing (R345 to R347) -/

/-- THRM of a sensor is written: refused unless WARN < THROT < TRIP; MAXT is cleared by ones (Table 16.2). -/
def execThrmWrite (n : Nat) (v : W64) (s : State) : Out :=
  let x := v.toNat
  let w := bitsNat x 18 10
  let t := bitsNat x 28 10
  let r := bitsNat x 38 10
  .next (if 128 ≤ n ∨ !(decide (w < t) && decide (t < r)) then s
    else s.updPack (fun p => { p with sensors := NMap.upd p.sensors n (fun k =>
      { k with hyst := bitsNat x 48 8, trip := r, throt := t, warn := w, maxt := k.maxt - (k.maxt &&& bitsNat x 10 8) }) }))
/-- The level after a poll (Table 16.3). -/
def Sensor.next (k : Sensor) (temp : Nat) : Nat :=
  let reach := if k.trip ≤ temp then 3 else if k.throt ≤ temp then 2 else if k.warn ≤ temp then 1 else 0
  let cold := decide (temp + k.hyst < k.warn)
  match k.level with
  | 0 => reach
  | 1 => if 2 ≤ reach then reach else if cold then 0 else 1
  | 2 => if reach = 3 then 3 else if temp + k.hyst < k.throt then (if cold then 0 else 1) else 2
  | _ => 3
/-- A sensor takes a reading: TEMP, MAXT in °C, and its level. -/
def Sensor.poll (k : Sensor) (temp : Nat) : Sensor :=
  { k with level := k.next temp, temp := temp % 1024, maxt := Nat.max k.maxt (Nat.min 255 (temp / 4)) }
/-- Partitions a sensor's throttling affects: the cluster's owner, or those with a window in the stack (R346). Sensor
96 + n stands in stack n / 4 (assumption 6). -/
def State.affected (s : State) (n : Nat) : List Nat :=
  (s.parts.filter (fun e => if n < 96 then e.2.clusters.contains n
    else e.2.wins.any (fun w => w.1 / 2 ^ 36 == (n - 96) / 4))).map (·.1)
/-- An emergency save of a partition's running context; a save under way completes as its own kind, and the partition
stays in thermal hold (R347). A partition that runs no context has none to save and none to hold. Assumption 54. -/
def State.emergency (s : State) (part sensor : Nat) : State :=
  match NMap.get? s.parts part with
  | none => s
  | some p =>
    if p.run.isNone && !p.thermal then s
    else
      let s := s.updPack (fun k => { k with
        saves := if k.saves.any (fun x => x.1 == part) then k.saves.map (fun x => if x.1 = part then (x.1, sensor :: x.2) else x) else k.saves ++ [(part, [sensor])] })
      let s := s.updPart part (fun p => { p with thermal := true })
      if p.run.isSome && p.saving == 0 then s.beginSave { p with thermal := true } 3 else s
/-- The ladder step a cluster takes at a poll (R346). -/
def State.heat (s : State) (c : Nat) : State :=
  let f := (s.cluster c).target
  if 2 ≤ s.level c then (if 470 < f then s.setClock c (stepDown f) else s).updCluster c (fun cl => { cl with hot := true })
  else if (s.cluster c).hot then (s.setClock c (stepUp f)).updCluster c (fun cl => { cl with hot := decide (stepUp f < 940) })
  else s
/-- Partitions whose sensors have all fallen below level 2 leave thermal hold (R347). -/
def State.cool (s : State) : State :=
  let done := (s.pack.saves.filter (fun x => x.2.all (fun n => decide (s.level n < 2)))).map (·.1)
  let s := done.foldl (fun s k => s.updPart k (fun p => { p with thermal := false })) s
  s.updPack (fun k => { k with saves := k.saves.filter (fun x => !(done.contains x.1)) })
/-- Every rail but the always-on domain's is removed: no clock runs, and neither the hinge link nor a station carries anything (R346). -/
def Pack.railsOff (p : Pack) : Pack :=
  { p with power := .off, hinge := false, stations := p.stations.map (fun e : Nat × Station => (e.1, { e.2 with up := false, width := 0 })) }
/-- All sensors are sampled: levels, ladder steps, warnings, emergency saves, and a trip that commits the counters and
removes the rails (R345 to R347, R350). -/
def execThermalPoll (temps : List Nat) (s : State) : Out :=
  if s.pack.power = .off then .next s else
  let old := s.pack.sensors
  let s := s.updPack (fun p => { p with sensors := p.sensors.map (fun e : Nat × Sensor => (e.1, e.2.poll (temps.getD e.1 e.2.temp))) })
  let lev := fun (n : Nat) => (NMap.getD old (Sensor.reset n) n).level
  let s := (List.range 128).foldl (fun s n => if s.level n = 1 ∧ lev n = 0 ∧ s.pack.hinge then s.emit (.warn n) else s) s
  let s := s.compute.foldl (fun s c => s.heat c) s
  let up := (List.range 128).filter (fun n => s.level n == 2 && decide (lev n < 2))
  let s := up.foldl (fun s n => (s.affected n).foldl (fun s k => s.emergency k n) s) s
  let s := s.cool
  .next (if (List.range 128).any (fun n => s.level n == 3 && decide (lev n < 3)) then s.commit.updPack Pack.railsOff else s)

end Sys2Proof.Machine
end

