-- ==== Sys2Proof/Machine/Reset.lean ====
section
/-! DEFINITION. Resets, boot, the control store and power loss (R332, R352, R355 to R357). -/

namespace Sys2Proof.Machine

/-- A control store as a list: number, length and words of each expansion in turn (R332; assumption 16). -/
def parseStore : Nat → List Nat → NMap (List Nat)
  | 0, _ => []
  | f + 1, n :: len :: r => NMap.put (parseStore f (r.drop len)) n (r.take len)
  | _ + 1, _ => []
/-- A new control store takes effect at the next reset; its image must be signed, and its version not below the stored one, which a
boot without the store keeps (R332). A package without its rails does not answer (R346). -/
def execControlStoreUpdate (version : Nat) (store : StoreImage) (s : State) : Out :=
  let stored := match s.pack.csNext with | some x => x.1 | none => (s.pack.nv.cs.map (·.1)).getD 0
  .next (if s.pack.power = .off then s else if !store.signed ∨ version < stored then s.emit (.refused version)
    else (s.updPack (fun p => { p with csNext := some (version % 2 ^ 32, store.words) })).emit (.accepted version))

/-- Numbers of retired units: clusters from 0, matrix arrays from 1,000 (four to a cluster), pseudo-channels from 2,000 (64 to a stack),
stations from 3,000. Assumption 58. -/
def retiredArray (l : List Nat) (c a : Nat) : Bool := l.contains (1000 + 4 * c + a)
/-- A cluster after boot: its health from nonvolatile storage, its arrays without the retired ones (R353, R355). Assumption 58. -/
def bootCluster (l : List Nat) (h : NMap Health) (c : Nat) : Cluster :=
  let k := (NMap.get? h c).getD { retired := 0, drift := 0, uce := 0, ce := 0 }
  { Cluster.reset with
    arrays := Cluster.reset.arrays.filter (fun e => !(retiredArray l c e.1)),
    health := { k with retired := if l.contains c then 1 else k.retired } }
/-- What a reset retires: the signed list and the clusters the health records name (R355). -/
def retirements (b : BootIn) (h : NMap Health) : List Nat :=
  b.retired ++ ((h.filter (fun e => e.2.retired != 0 && decide (e.1 < 96) && !(b.retired.contains e.1))).map (·.1))
/-- A station after training (R355, Table 18.2). -/
def bootStation (b : BootIn) (n : Nat) : Station :=
  let half := b.retired.contains (3000 + n)
  let up := b.linksUp.contains n
  { up := up, width := if !up then 0 else if half then 1 else 2, degraded := half && up, retrain := 0, eye := b.eyes.getD n 0 % 65536 }
/-- Sensors after a reset: thresholds at reset; level 3 is cleared by a cold reset alone (R345, R356). -/
def bootSensors (old : NMap Sensor) (cold : Bool) : NMap Sensor :=
  (List.range 128).map (fun n =>
    let k := NMap.getD old (Sensor.reset n) n
    (n, { Sensor.reset n with level := if k.level = 3 ∧ !cold then 3 else 0, temp := k.temp }))
/-- Banks resume from the last commit; sequence numbers never repeat (R351, R352). -/
def bootBanks (p : Pack) : NMap EBank :=
  p.nv.banks.map (fun e => (e.1, { e.2 with seq := Nat.max e.2.seq (NMap.getD p.banks EBank.zero e.1).seq }))
/-- What the package schedules for itself within a run and a reset discards. -/
def ownEvent : Instr → Bool
  | .blockPlacement _ => true | .scrubCompletion _ => true | .invalidationCompletion _ => true | .clockStepChange _ => true
  | .recvHoldTimeout _ _ => true | _ => false
/-- Every firmware image is accepted, the control store among them (R357). -/
def verified (b : BootIn) (rollback : List Nat) : Bool :=
  b.firmwareOk && b.controlStore && (List.range rollback.length).all (fun k => decide (rollback.getD k 0 ≤ b.versions.getD k 0))
/-- A reset and the boot after it: every partition and grid ends, the reset count rises, and the boot ROM brings the package
up or leaves it in recovery (R355 to R357). Assumption 60. -/
def State.boot (s : State) (b : BootIn) (cold : Bool) : State :=
  let p := s.pack
  let ok := verified b p.rollback
  let cs := match p.csNext with | some x => some (x.1, parseStore x.2.length x.2) | none => p.nv.cs
  let banks := bootBanks p
  let nv := { p.nv with resets := p.resets + 1, banks := banks, cs := if ok then cs else p.nv.cs }
  let gone := if ok then retirements b p.nv.health else []
  let pack : Pack := { Pack.reset with
    power := if ok then .on else .recovery, ns := p.ns, sub := p.sub, sensors := bootSensors p.sensors cold, banks := if ok then banks else Pack.reset.banks,
    unattr := p.unattr, nv := nv, resets := p.resets + 1, hbmCe := p.hbmCe, polled := p.polled,
    csver := (match cs with | some x => if ok then BitVec.ofNat 64 (x.1 + 2 ^ 32) else 0#64 | none => 0#64),
    cstore := (match cs with | some x => if ok then x.2 else [] | none => []),
    csNext := if ok then none else p.csNext, fw := if ok then b.versions else [], hashes := if ok then b.hashes else [],
    rollback := p.rollback, retired := gone, hinge := b.hingeUp || !ok, hingeEye := if ok then b.eyes.getD 4 0 % 65536 else 0,
    stations := if ok then (List.range 4).map (fun n => (n, bootStation b n)) else Pack.reset.stations, out := p.out }
  { State.reset with
    clusters := (List.range 104).map (fun c => (c, { bootCluster gone p.nv.health c with due := s.now })),
    pack := pack, nextId := s.nextId, now := s.now, fresh := s.fresh, inputs := s.inputs.filter (fun e => !(ownEvent e.2)) }
/-- Power is applied (R356). Assumption 60. -/
def execColdReset (b : BootIn) (s : State) : Out := .next (s.boot b true)
/-- The driver asks for a reset: the counters are committed first; it does not complete while a sensor is at level 3, or
without power (R356). -/
def execWarmReset (b : BootIn) (s : State) : Out :=
  .next (if (s.pack.power == .off) || (List.range 128).any (fun n => s.level n == 3) then s else s.commit.boot b false)
/-- Management firmware is unresponsive for 1 s: the counters are committed and the package resets (R356). -/
def execWatchdogReset (b : BootIn) (s : State) : Out :=
  .next (if s.pack.power == .off then s else s.commit.boot b false)
/-- Power goes without a commit: the energy since the last one is not counted, and GAP marks it (R352). -/
def execPowerLoss (s : State) : Out :=
  .next (if s.pack.power = .off then s else s.updPack (fun p => { p.railsOff with nv := { p.nv with banks := p.nv.banks.map (fun e => (e.1, { e.2 with gap := true })) } }))

end Sys2Proof.Machine
end

