-- ==== Sys2Proof/Machine/Fabric.lean ====
section
/-! DEFINITION. The hinge link and its companion, the time base, other packages, stations, and replacement in caches
(R156, R280, R284, R288, R290, R293, R368 to R374, R377, R380, R386). -/

namespace Sys2Proof.Machine

/-! ### The companion (R368 to R370) -/

/-- n bytes of the HBM stacks as a non-coherent read sees them; storage of an enabled range is refused (R172, R288). -/
def Mems.stackBytes (m : Mems) (pa n : Nat) : Option (List Byte) :=
  if (List.range n).all (fun j => populated (pa + j) && (m.range (pa + j)).isNone) then some (Memory.bytes m.hbm pa n) else none
/-- Write a list of bytes at home, sector by sector, as a store does (R297). -/
def State.homeBytes (s : State) (pa : Nat) (bytes : List Byte) : Option State :=
  (s.mem.store pa bytes.length (leNat bytes)).map (fun m =>
    let secs := (List.range (bytes.length + 1)).filter (fun j => decide (j < bytes.length) && (j == 0 || (pa + j) % 256 == 0))
    secs.foldl (fun s j => s.wake (.pa (pa + j))) { s with mem := secs.foldl (fun m j => m.noteWrite (pa + j) .cg) m })
/-- A range lies in one memory window of a partition. -/
def Part.inWindow (p : Part) (pa n : Nat) : Bool := p.owns pa (pa + n)
/-- A companion access to device memory: reads see what the stacks hold, writes perform at the home slice; outside the
window it is an error and changes nothing (R368). -/
def execCompanionDeviceAccess (a : HostAcc) (s : State) : Out :=
  .next (if !s.pack.hinge then s
    else match NMap.get? s.parts a.part with
      | none => s.emit .error
      | some p =>
        if !(p.inWindow a.addr a.len) then s.emit .error
        else if a.write then (match s.homeBytes a.addr (a.data.take a.len) with | some s => s.emit (.data []) | none => s.emit .error)
        else match s.mem.stackBytes a.addr a.len with
          | some b => s.emit (.data b)
          | none => s.emit .error)
/-- A companion access to a partition's cistern window, at an offset: it performs at the cistern home (R369). -/
def execCompanionCisternAccess (a : HostAcc) (s : State) : Out :=
  .next (if !s.pack.hinge then s
    else match NMap.get? s.parts a.part with
      | none => s.emit .error
      | some p =>
        let pa := cisternBase + p.cisBase + a.addr
        if p.cisLen < a.addr + a.len then s.emit .error
        else if a.write then (match s.homeBytes pa (a.data.take a.len) with | some s => s.emit (.data []) | none => s.emit .error)
        else s.emit (.data (Memory.bytes s.mem.home pa a.len)))
/-- A host-side flush: dirty sectors of a range, carriers of its storage too, inside the partition's windows go to HBM, then a completion message (R370). -/
def execHostFlushCommand (addr len part : Nat) (s : State) : Out :=
  .next (if !s.pack.hinge then s
    else match NMap.get? s.parts part with
      | none => s.emit .error
      | some p =>
        if !(p.inWindow addr len) then s.emit .error
        else
          let held := s.mem.l2.filter (fun e => decide (addr < storageOf (e.1 * 256) + 256) && decide (storageOf (e.1 * 256) < addr + len) && e.2.dirty)
          (s.updMem (fun m => held.foldl (fun m e => m.flushSec e.1) m)).emit (.flushDone addr len))

/-! ### The time base (R372) -/

/-- How long the 1588 input may be away: 2 s. -/
def inputTime : Nat := 2000000 * tpu
/-- The next test of the 1588 input, 2 s after a transfer; one is enough at a time. -/
def State.watchInput (s : State) (dt : Nat) : State :=
  if s.inputs.any (fun e => match e.2 with | .timeInputLoss => true | _ => false) then s else s.schedule dt .timeInputLoss
/-- The delivered time: the time base steps to it once after a reset, at the first lock and before any partition was accepted, and is
slewed from then on (R372). -/
def execTimeTransfer (ns : Nat) (s : State) : Out :=
  .next (if !s.pack.hinge then s
    else (if !s.pack.stepped && !s.pack.served then
      s.updPack (fun p => { p with ns := ns % 2 ^ 64, sub := 0, slew := 0, offset := 0, tsync := 2, stepped := true, xfer := some s.now })
    else
      let d : Int := (ns : Int) - s.pack.ns
      let sat : Int := if 32767 < d then 32767 else if d < -32768 then -32768 else d
      s.updPack (fun p => { p with slew := d * tpNs, offset := (sat % 65536).toNat, stepped := true, tsync := if d.natAbs ≤ 5 then 2 else 1,
                                   xfer := some s.now })).watchInput inputTime)
/-- HOLDOVER begins: the time base runs free (R372). Assumption 47. -/
def State.holdover (s : State) : State :=
  s.updPack (fun p => { p with tsync := 3, slew := 0, holds := if p.tsync = 3 then p.holds else Nat.min 65535 (p.holds + 1) })
/-- The 1588 input has been lost for 2 s: HOLDOVER. After a later transfer the test comes again when 2 s are over; before the first transfer
nothing is lost (R372). -/
def execTimeInputLoss (s : State) : Out :=
  .next (match s.pack.xfer with
    | none => s
    | some t => if t + inputTime ≤ s.now then s.holdover else s.watchInput (t + inputTime - s.now))

/-! ### Requests of other packages (R278, R288, R373, R375, R377) -/

/-- The physical address of a remote local address (R278). -/
def localOf (a : Nat) : Option Nat :=
  if bitsNat a 40 1 = 1 then some (carrierBase + a % 2 ^ 40)
  else if bitsNat a 39 1 = 0 then some (a % 2 ^ 39)
  else if bitsNat a 22 17 = 0 then some (cisternBase + a % 2 ^ 22) else none
/-- An access of 1 to 256 bytes in one 256-byte range, aligned to its length where that is a power of two; an atomic has 4 or 8 (R373).
Assumption 70. -/
def upliPartOk (x : UpliPart) (kind addr : Nat) : Bool :=
  let a := addr + x.ofs
  decide (1 ≤ x.len) && decide (a % 256 + x.len ≤ 256) && decide (a / 256 = addr / 256) &&
  (!([1, 2, 4, 8, 16, 32, 64, 128, 256].contains x.len) || a % x.len == 0) && (decide (kind ≤ 1) || x.len == 4 || x.len == 8)
/-- A request that is carried: its kind and every access of it. -/
def peerReqOk (r : PeerReq) : Bool := decide (r.kind ≤ 8) && !r.parts.isEmpty && r.parts.all (fun x => upliPartOk x r.kind r.addr)
/-- The bytes of an access of a peer, read at home. -/
def State.peerRead (s : State) (addr : Nat) (x : UpliPart) : Option (List Byte) :=
  (localOf (addr + x.ofs)).bind (fun pa => (s.mem.load pa x.len).map (natLE x.len))
/-- A UPLI read, or a kind that is not carried. A response goes back with the bytes of its accesses in order (R288, R373, R375). -/
def execRemoteRequestArrival (r : PeerReq) (s : State) : Out :=
  .next (if !s.linkUp then s
    else if r.kind ≠ 0 ∨ !(peerReqOk r) then s.emit .error
    else
      let got := r.parts.map (s.peerRead r.addr)
      if got.all (·.isSome) then
        (s.updMem (fun m => r.parts.foldl (fun m x => match localOf (r.addr + x.ofs) with | some pa => m.noteRead pa .cg | none => m) m)).emit
          (.data (got.flatMap (fun b => b.getD [])))
      else s.emit .error)
/-- The operation and type of a UPLI atomic of 4 or 8 bytes. -/
def upliAtom (kind len : Nat) : Option (AtomOp × ATy) :=
  let ty := fun signed => if len = 4 then some (if signed then ATy.i32 else ATy.n32) else if len = 8 then some (if signed then ATy.i64 else ATy.n64) else none
  match kind with
  | 2 => (ty false).map (fun t => (.add, t))
  | 3 => (ty true).map (fun t => (.min, t))
  | 4 => (ty true).map (fun t => (.max, t))
  | 5 => (ty false).map (fun t => (.min, t))
  | 6 => (ty false).map (fun t => (.max, t))
  | 7 => (ty false).map (fun t => (.xchg, t))
  | 8 => (ty false).map (fun t => (.cas, t))
  | _ => none
/-- One access of a peer's write or atomic performs at home; what it answers. -/
def State.peerAccess (s : State) (kind addr : Nat) (x : UpliPart) : Option (List Byte × State) :=
  (localOf (addr + x.ofs)).bind (fun pa =>
    if kind = 1 then (s.homeBytes pa (natLE x.len (leNat x.data))).map (fun s => ([], s))
    else match upliAtom kind x.len, s.mem.load pa x.len with
      | some f, some old =>
        let c := leNat (x.data.take x.len)
        let v := if kind = 8 then leNat ((x.data.drop x.len).take x.len) else c
        (s.homeBytes pa (natLE x.len (atomNew f.1 f.2 old v c))).map (fun s => (natLE x.len old, s))
      | _, _ => none)
/-- The accesses of a peer's request perform in order, each at its home; none where one of them has an error. -/
def State.peerAccesses (kind addr : Nat) : List UpliPart → State → Option (List Byte × State)
  | [], s => some ([], s)
  | x :: r, s => (s.peerAccess kind addr x).bind (fun y => (State.peerAccesses kind addr r y.2).map (fun z => (y.1 ++ z.1, z.2)))
/-- A write or atomic of a peer performs at home, and the fence counter of its source rises by one (R375, R377). -/
def State.peerPerform (s : State) (h : Held) : State :=
  let s := s.updPeer h.src (fun p => { p with fence := p.fence + 1 })
  match State.peerAccesses h.kind h.addr h.parts s with
  | some y => y.2.emit (.data y.1)
  | none => s.emit .error
/-- A write or atomic of a later epoch is held until the markers before it are acknowledged (R377). -/
def State.peerWrite (s : State) (h : Held) : State :=
  if (s.peer h.src).acked < h.epoch then s.updPeer h.src (fun p => { p with held := p.held ++ [h] }) else s.peerPerform h
/-- A UPLI write or atomic arrives (R373, R377). -/
def execRemoteWriteArrival (r : PeerReq) (s : State) : Out :=
  .next (if !s.linkUp then s
    else if r.kind = 0 ∨ !(peerReqOk r) then s.emit .error
    else s.peerWrite { src := r.src, epoch := r.epoch, kind := r.kind, addr := r.addr, parts := r.parts, msg := none })
/-- A message arrives from another package: it enters its queue, or waits for a marker or for room (R377, R380). -/
def execMessageArrival (src ch epoch : Nat) (data : List W32) (s : State) : Out :=
  .next (if !s.linkUp then s
    else (s.updPeer src (fun p => { p with held := p.held ++ [Held.mk src epoch 0 0 [] (some (ch, data))] })).takeIn src)
/-- A marker arrives with the count of writes sent before it (R377). -/
def execDrainMarkerArrival (src count : Nat) (s : State) : Out :=
  .next (s.updPeer src (fun p => { p with marks := p.marks ++ [(p.acked + p.marks.length + 1, count)] }))
/-- The fence counter has reached the oldest marker's count: it is acknowledged and the writes behind it go on (R377). -/
def execMarkerAcknowledge (src : Nat) (s : State) : Out :=
  .next (match (s.peer src).marks with
    | [] => s
    | m :: r =>
      if (s.peer src).fence < m.2 then s
      else
        let go := fun (h : Held) => h.msg.isNone && decide (h.epoch ≤ m.1)
        let s' := s.updPeer src (fun p => { p with marks := r, acked := m.1, held := p.held.filter (fun h => !(go h)) })
        (((s.peer src).held.filter go).foldl (fun s h => s.peerPerform h) (s'.emit (.markerAck src m.1))).takeIn src)

/-! ### Stations and links (R374, R386) -/

/-- The lanes of an operation that wait on a station, or on any when `all`. -/
def State.linkLanes (s : State) (n : Nat) (all : Bool) (ops : List VarOp) (o : VarOp) : Lanes :=
  o.reqs.foldl (fun m r => match r.loc with
    | .pa a => if r.outstanding ops o && (all || s.stationOf a == some n) then m ||| laneBit r.lane else m
    | _ => m) 0#64
/-- A SEND that has left its sender and has no response yet. -/
def State.sendOut (s : State) (core : Nat) (o : VarOp) : Bool :=
  match o.kind with
  | .send _ q ch n _ _ _ =>
    let ops := (s.core core).ops
    n != 0 && !(s.ownId core q) && !(marksHold ops o.uid o.id q) && !(sendsHold ops o.uid o.id q ch)
  | _ => false
/-- A SEND gets an error response: its status says so, under DET at its padded ic (R184, R386). -/
def State.sendError (s : State) (core : Nat) (o : VarOp) : State :=
  if o.padded && o.rem != 0 then s.updOp core o.id (fun o => { o with fail := 1 })
  else (s.msgStatus core o o.kind.dest unreachable).dataHere core
/-- The place in another package of a CPYR's next point, whose request is outstanding. -/
def State.cpNext (s : State) (c : CopyCmd) : Option Nat :=
  let a := ((if c.far = 1 then cpSrc c.words (cpPoint c.words c.done) else cpDst c.words (cpPoint c.words c.done)) % 2 ^ 64).toNat
  (s.partOf c.core).bind (fun p => match walkAll s.mem p a with | .ok pa _ => if isRemote pa then some pa else none | _ => none)
/-- A station goes down: its outstanding requests end with error responses. Of a SEND's and a COLL's requests the station is free, a CPYR's
is that of its next point (DESIGN CHOICE, assumption 92). With no station left every remote operation ends so, and a RECV that waits past
its padded ic (R386). -/
def execStationDown (n : Nat) (s : State) : Out :=
  let last := s.upStations == [n]
  let up := s.upStations.contains n
  let hits := fun (k : Nat) => last || (up && Config.freeBool (s.fresh + k))
  let lanes := fun (c : Core) (o : VarOp) => s.linkLanes n last c.ops o
  let hit := s.cores.flatMap (fun e => (e.2.ops.filter (fun o => lanes e.2 o != 0#64)).map (fun o => (e.1, o.id, lanes e.2 o)))
  let sends := s.cores.flatMap (fun e => (e.2.ops.filter (fun o => s.sendOut e.1 o && hits o.id)).map (fun o => (e.1, o)))
  let copies := s.clusters.flatMap (fun e => (e.2.copies.filter (fun c => c.remote &&
    (if c.kind == .coll then c.got.isNone && hits c.id else last || (match s.cpNext c with | some pa => s.stationOf pa == some n | none => false)))).map (fun c => (e.1, c)))
  let s := { s.updPack (fun p => { p with stations := NMap.upd p.stations n (fun x => { x with up := false, width := 0 }) }) with fresh := s.fresh + s.nextId + 1 }
  let s := hit.foldl (fun s x => s.progress x.1 x.2.1 x.2.2) s
  let s := sends.foldl (fun s x => s.sendError x.1 x.2) s
  let recvs := s.cores.flatMap (fun e => (e.2.ops.filter (fun o => o.rem == 0 && (match o.kind with
    | .recv _ q _ n _ _ _ none => n != 0 && !(s.canReach e.1 q) | _ => false))).map (fun o => (e.1, o)))
  let s := recvs.foldl (fun s x => (s.msgStatus x.1 x.2 x.2.kind.dest unreachable).dataHere x.1) s
  .next (copies.foldl (fun s x => s.copyErr x.1 x.2 ⟨6, 0, 0⟩) s)
/-- A station trains at x2 (R386, Table 18.2), while the package has its rails (R346). -/
def execStationDegraded (n : Nat) (s : State) : Out :=
  .next (if s.pack.power = .off then s else s.updPack (fun p => { p with stations := NMap.upd p.stations n (fun x => { x with up := true, width := 1, degraded := true }) }))
/-- Bit errors are corrected by a retry; RETRAIN counts a retraining (R386). -/
def execLinkRetry (n : Nat) (s : State) : Out :=
  .next (s.updPack (fun p => { p with stations := NMap.upd p.stations n (fun x => { x with retrain := Nat.min 65535 (x.retrain + 1) }) }))
/-- The hinge link fails: companion accesses and interrupts stop, the time base runs free, partitions run on (R386). -/
def execHingeLinkFailure (s : State) : Out := .next (s.holdover.updPack (fun p => { p with hinge := false }))
/-- TSYNC (Table 18.1) and USTAT (Table 18.2), as the driver reads them. -/
def Pack.tsyncWord (p : Pack) : Nat := 2 ^ 62 * p.tsync + 2 ^ 32 * p.offset + p.holds
def Station.word (x : Station) : Nat :=
  2 ^ 32 * x.retrain + 2 ^ 16 * x.eye + 2 ^ 4 * x.width + 2 ^ 3 * x.degraded.toNat + x.up.toNat
/-- PWRCTL (Table 16.1), THRM (Table 16.2) and CHLTH (Table 16.6) as they read. -/
def Pack.pwrctl (p : Pack) : Nat := 2 ^ 44 * p.plim + 2 ^ 37 * p.last + 2 ^ 30 * p.rearm + 2 ^ 23 * p.cap + 2 ^ 16 * p.count
def Sensor.word (k : Sensor) : Nat :=
  2 ^ 56 * k.level + 2 ^ 48 * k.hyst + 2 ^ 38 * k.trip + 2 ^ 28 * k.throt + 2 ^ 18 * k.warn + 2 ^ 10 * k.maxt + k.temp
def Health.word (h : Health) : Nat := 2 ^ 63 * h.retired + 2 ^ 32 * h.drift + 2 ^ 16 * h.uce + h.ce

/-! ### Replacement (R156, R280, R284, R290, R293) -/

/-- A line or translation leaves a cache: a dirty L2 sector is written back, a carrier sector re-encodes. -/
def execLineReplacement (v : Victim) (s : State) : Out :=
  .next (match v with
    | .l1 core sec => s.updCore core (fun c => { c with l1 := NMap.del c.l1 sec })
    | .l2 sec => s.updMem (fun m =>
        m.dropLine (sec / 4))
    | .rdc sec => s.updMem (fun m => { m with rdc := NMap.del m.rdc sec })
    | .utlb core page => s.updCore core (fun c => { c with utlb := c.utlb.filter (fun e => e.vbase != page) })
    | .ctlb cluster page => s.updCluster cluster (fun c => { c with tlb := c.tlb.filter (fun e => e.vbase != page) }))

end Sys2Proof.Machine
end

