-- ==== Sys2Proof/Machine/VecFloat.lean ====
section
/-! DEFINITION. Float arithmetic, conversions, special functions and division of the V slot (R92 to R103, R109). -/

namespace Sys2Proof.Machine

def natR (r : Nat × AFlags) : Int × AFlags := ((r.1 : Int), r.2)

/-- One rounded result of two operands. -/
def State.vF2 (s : State) (o : Bin) (t : FTy) (r : RMode) (sat : Bool) (f : Bool → XV → XV → XV × AFlags) : Out :=
  s.vRun (vBin o false .fp) none (isSr r) (fun i ops l =>
    natR (finish t r sat (i.rnd r l) (f (r == .rd) (decF t (ops 0)) (decF t (ops 1)))))
/-- One rounded result of three operands. -/
def State.vF3 (s : State) (o : Tern) (t : FTy) (r : RMode) (sat : Bool) (f : Bool → XV → XV → XV → XV × AFlags) : Out :=
  s.vRun (vTern o false .fp) none (isSr r) (fun i ops l =>
    natR (finish t r sat (i.rnd r l) (f (r == .rd) (decF t (ops 0)) (decF t (ops 1)) (decF t (ops 2)))))

/-- FADD (R92). -/
def execFadd (o : Bin) (t : FTy) (r : RMode) (sat : Bool) (s : State) : Out := s.vF2 o t r sat faddX
/-- FSUB: x + (-y) (R92). -/
def execFsub (o : Bin) (t : FTy) (r : RMode) (sat : Bool) (s : State) : Out := s.vF2 o t r sat (fun rd x y => faddX rd x y.negate)
/-- FMUL (R92). -/
def execFmul (o : Bin) (t : FTy) (r : RMode) (sat : Bool) (s : State) : Out := s.vF2 o t r sat (fun _ x y => fmulX x y)
/-- FMA (R92). -/
def execFma (o : Tern) (t : FTy) (r : RMode) (sat : Bool) (s : State) : Out := s.vF3 o t r sat fmaX
/-- FMS: x y + (-z) (R92). -/
def execFms (o : Tern) (t : FTy) (r : RMode) (sat : Bool) (s : State) : Out := s.vF3 o t r sat (fun rd x y z => fmaX rd x y z.negate)
/-- FNMA: (-(x y)) + z (R92). -/
def execFnma (o : Tern) (t : FTy) (r : RMode) (sat : Bool) (s : State) : Out := s.vF3 o t r sat (fun rd x y z => fmaX rd x.negate y z)
/-- FMIN (R93). -/
def execFmin (o : Bin) (t : FTy) (s : State) : Out :=
  s.vRun (vBin o false .fp) none false (fun _ ops _ => natR (fminmax t false (ops 0) (ops 1)))
/-- FMAX (R93). -/
def execFmax (o : Bin) (t : FTy) (s : State) : Out :=
  s.vRun (vBin o false .fp) none false (fun _ ops _ => natR (fminmax t true (ops 0) (ops 1)))
/-- FCMP: a predicate bit per active lane (R94). -/
def execFcmp (o : CmpOp) (t : FTy) (c : FCond) (s : State) : Out :=
  s.vRun (vCmp o false .fp) (some o.pd.toNat) false (fun _ ops _ =>
    let r := fcmpX c (decF t (ops 0)) (decF t (ops 1)); ((r.1.toNat : Int), r.2))
/-- FCLS (R96). -/
def execFcls (o : Un) (t : FTy) (s : State) : Out :=
  s.vRun (vUn o false false .fp) none false (fun _ ops _ => ((fclsX t (decF t (ops 0)) : Int), 0#6))
/-- FRND (R97). -/
def execFrnd (o : Un) (t : FTy) (r : RMode) (s : State) : Out :=
  s.vRun (vUn o false false .fp) none (isSr r) (fun i ops l => natR (roundIntegral t r (i.rnd r l) (decF t (ops 0))))
/-- FCVT (R100): a NaN of the source becomes the destination's, with NV if it was signalling. -/
def execFcvt (o : Un) (src dst : FFmt) (r : RMode) (sat : Bool) (s : State) : Out :=
  s.vRun (vUn o false false .fp) none (isSr r) (fun i ops l =>
    let x := decFmt src (ops 0)
    let c := encFmt dst r sat (i.rnd r l) x
    ((c.1 : Int), c.2 ||| flIf x.isSNan flNV))
/-- The exact sum of FDOT2 with the rules of Table 4.3 on its products and sum (R99). -/
def dot2X (rd : Bool) (x0 y0 x1 y1 c : XV) : XV × AFlags :=
  let sg := flIf (x0.isSNan || y0.isSNan || x1.isSNan || y1.isSNan || c.isSNan) flNV
  let p := mulX x0 y0
  let q := mulX x1 y1
  if p.2 || q.2 then (.nan false, sg ||| flNV)
  else if x0.isNan || y0.isNan || x1.isNan || y1.isNan || c.isNan then (.nan false, sg)
  else
    let a := addX rd p.1 q.1
    if a.2 then (.nan false, sg ||| flNV) else let b := addX rd a.1 c; (b.1, sg ||| flIf b.2 flNV)
/-- FDOT2 (R99). -/
def execFdot2 (o : Tern) (bf : Bool) (r : RMode) (sat : Bool) (s : State) : Out :=
  s.vRun (vTern o false .fp) none (isSr r) (fun i ops l =>
    let t : FTy := if bf then .bf16 else .f16
    let e := fun k h => decF t (ops k / 2 ^ (16 * h) % 2 ^ 16)
    natR (finish .f32 r sat (i.rnd r l) (dot2X (r == .rd) (e 0 0) (e 1 0) (e 0 1) (e 1 1) (decF .f32 (ops 2)))))
/-- FSCL: x times a power of two, rounded once (R98). -/
def execFscl (o : Bin) (t : FTy) (r : RMode) (sat : Bool) (s : State) : Out :=
  s.vRun (vBin o false .fp) none (isSr r) (fun i ops l =>
    let x := decF t (ops 0)
    natR (finish t r sat (i.rnd r l) (x.scale2 (sext 32 (ops 1)), flIf x.isSNan flNV)))
/-- AFCP: Compose on pairs, gain in the low word and offset in the high one (R101). -/
def execAfcp (o : Bin) (s : State) : Out :=
  s.vRun (vBin o true .fp) none false (fun _ ops _ =>
    let lo := fun x : Nat => x % 2 ^ 32
    let hi := fun x : Nat => x / 2 ^ 32 % 2 ^ 32
    let r := compose (lo (ops 0)) (hi (ops 0)) (lo (ops 1)) (hi (ops 1))
    ((r.1.1 + 2 ^ 32 * r.1.2 : Nat), r.2))

/-- A special function, correctly rounded (R102). -/
def State.vSfu (s : State) (o : Un) (c : VClass) (t : FTy) (r : RMode) (f : SFun) : Out :=
  s.vRun (vUn o false false c) none (isSr r) (fun i ops l => natR (finish t r false (i.rnd r l) (specialX f (decF t (ops 0)))))
/-- FRCP (R102). -/
def execFrcp (o : Un) (t : FTy) (r : RMode) (s : State) : Out := s.vSfu o .sfu t r .rcp
/-- FRSQ (R102). -/
def execFrsq (o : Un) (t : FTy) (r : RMode) (s : State) : Out := s.vSfu o .sfu t r .rsq
/-- FSQRT (R102). -/
def execFsqrt (o : Un) (t : FTy) (r : RMode) (s : State) : Out := s.vSfu o .fsqrt t r .sqrt
/-- FEX2 (R102). -/
def execFex2 (o : Un) (t : FTy) (r : RMode) (s : State) : Out := s.vSfu o .sfu t r .ex2
/-- FLG2 (R102). -/
def execFlg2 (o : Un) (t : FTy) (r : RMode) (s : State) : Out := s.vSfu o .sfu t r .lg2
/-- FSIN (R102). -/
def execFsin (o : Un) (t : FTy) (r : RMode) (s : State) : Out := s.vSfu o .sfu t r .sin
/-- FCOS (R102). -/
def execFcos (o : Un) (t : FTy) (r : RMode) (s : State) : Out := s.vSfu o .sfu t r .cos
/-- FTNH (R102). -/
def execFtnh (o : Un) (t : FTy) (r : RMode) (s : State) : Out := s.vSfu o .sfu t r .tnh

/-- FDIV: a variable-latency operation of the special-function unit, which ends no earlier than its beats (R103). Assumption 71. -/
def execFdiv (o : Bin) (t : FTy) (r : RMode) (f : FSel) (s : State) : Out :=
  let v := vBin o false .fdiv
  s.slotOp (fun i => i.flagTrap f 1) (fun i =>
    let m := effMask v.isScalar (i.act v.p)
    let x := runLanes (i.act v.p) v.isScalar false (s.vOperand i v)
      (fun ops l => natR (finish t r false (i.rnd r l) (fdivX (decF t (ops 0)) (decF t (ops 1)))))
    let det := s.isDet i.core
    let rem := if det then padFig (s.ratio i.core) .fdiv
      else vBeats (s.ratio i.core) .fdiv + (if m = 0#64 then 0 else Config.freeNat (s.fresh + 255))
    let s := s.popAll i v
    let d := s.destOf i o.d false
    let op : VarOp := { id := s.nextId, wave := i.wave, uid := i.pre.uid, grid := i.pre.grid, split := i.split, pc := i.sp.pc,
                        handler := i.pre.inTrap, flag := i.flagOf f, rem := rem, padded := det,
                        kind := .fdiv d.1 x.1 m x.2, reqs := [] }
    let s := { d.2 with nextId := s.nextId + 1, fresh := s.fresh + 256 }
    let s := s.updCore i.core (fun c => { c with ops := c.ops ++ [op] })
    ((s.updIss i (fun w => w.raise (i.flagOf f))).updIssSplit i (fun sp => sp.kill d.1 m)).stepRng i (isSr r))

/-- FTOI (R109). -/
def execFtoi (o : Un) (src : FFmt) (dst : ITy) (r : RMode) (s : State) : Out :=
  s.vRun (vUn o dst.wide false .fp) none (isSr r) (fun i ops l => toInt dst r (i.rnd r l) (decFmt src (ops 0)))
/-- ITOF (R109). -/
def execItof (o : Un) (src : ITy) (dst : FFmt) (r : RMode) (sat : Bool) (s : State) : Out :=
  s.vRun (vUn o false src.wide .fp) none (isSr r) (fun i ops l =>
    natR (encFmt dst r sat (i.rnd r l) (XV.ofInt (src.dec (ops 0)))))

end Sys2Proof.Machine
end

