-- ==== Sys2Proof/Machine/VecInt.lean ====
section
/-! DEFINITION. Integer arithmetic, comparison, conversion and bit operations of the V slot (R95, R104 to R113). -/

namespace Sys2Proof.Machine

/-- Two operands read under an integer type. -/
def State.vI2 (s : State) (o : Bin) (t : ITy) (f : Int → Int → Int × AFlags) : Out :=
  s.vRun (vBin o t.wide .int) none false (fun _ ops _ => f (t.dec (ops 0)) (t.dec (ops 1)))
/-- Two operands as bits of the type's width; the result is read back under the type. -/
def State.vB2 (s : State) (o : Bin) (t : ITy) (f : Nat → Nat → Nat → Nat) : Out :=
  s.vRun (vBin o t.wide .int) none false (fun _ ops _ =>
    let W := ITy.width t; (t.dec (f W (ops 0 % 2 ^ W) (ops 1 % 2 ^ W)), 0#6))
/-- One operand as bits of the type's width. -/
def State.vB1 (s : State) (o : Un) (t : ITy) (f : Nat → Nat → Nat) : Out :=
  s.vRun (vUn o t.wide t.wide .int) none false (fun _ ops _ => let W := ITy.width t; (t.dec (f W (ops 0 % 2 ^ W)), 0#6))

/-- IADD (R104). -/
def execIadd (o : Bin) (t : ITy) (sat : Bool) (s : State) : Out := s.vI2 o t (fun x y => t.fit sat (x + y))
/-- ISUB (R104). -/
def execIsub (o : Bin) (t : ITy) (sat : Bool) (s : State) : Out := s.vI2 o t (fun x y => t.fit sat (x - y))
/-- IADC: sum with a carry, or the carry out (R105). -/
def execIadc (o : Tern) (wide co : Bool) (s : State) : Out :=
  s.vRun (vTern o wide .int) none false (fun _ ops _ =>
    let W := if wide then 64 else 32
    let x := ops 0 % 2 ^ W + ops 1 % 2 ^ W + ops 2 % 2
    ((if co then x / 2 ^ W else x % 2 ^ W : Nat), 0#6))
/-- IMUL (R106). -/
def execImul (o : Bin) (t : ITy) (sat : Bool) (s : State) : Out := s.vI2 o t (fun x y => t.fit sat (x * y))
/-- IMULH: the upper W bits of the exact product (R106). -/
def execImulh (o : Bin) (t : ITy) (s : State) : Out := s.vI2 o t (fun x y => (t.wrap (x * y / 2 ^ ITy.width t), 0#6))
/-- IMAD (R106). -/
def execImad (o : Tern) (t : ITy) (sat : Bool) (s : State) : Out :=
  s.vRun (vTern o t.wide .int) none false (fun _ ops _ => t.fit sat (t.dec (ops 0) * t.dec (ops 1) + t.dec (ops 2)))
/-- IMIN (R107). -/
def execImin (o : Bin) (t : ITy) (s : State) : Out := s.vI2 o t (fun x y => (if x ≤ y then x else y, 0#6))
/-- IMAX (R107). -/
def execImax (o : Bin) (t : ITy) (s : State) : Out := s.vI2 o t (fun x y => (if x ≤ y then y else x, 0#6))
/-- IABS (R107). -/
def execIabs (o : Un) (t : ITy) (sat : Bool) (s : State) : Out :=
  s.vRun (vUn o t.wide t.wide .int) none false (fun _ ops _ => t.fit sat ((t.dec (ops 0)).natAbs : Int))
/-- The conditions of ICMP (Table 4.4). -/
def icmpX (c : ICond) (x y : Int) : Bool :=
  match c with
  | .eq => x == y | .ne => x != y | .lt => decide (x < y) | .le => decide (x ≤ y) | .gt => decide (y < x) | .ge => decide (y ≤ x)
/-- ICMP (R95). -/
def execIcmp (o : CmpOp) (t : ITy) (c : ICond) (s : State) : Out :=
  s.vRun (vCmp o t.wide .int) (some o.pd.toNat) false (fun _ ops _ => ((icmpX c (t.dec (ops 0)) (t.dec (ops 1))).toNat, 0#6))
/-- ICVT (R108). -/
def execIcvt (o : Un) (src dst : ITy) (sat : Bool) (s : State) : Out :=
  s.vRun (vUn o dst.wide src.wide .int) none false (fun _ ops _ => dst.fit sat (src.dec (ops 0)))

/-- AND (R110). -/
def execAnd (o : Bin) (t : ITy) (s : State) : Out := s.vB2 o t (fun _ x y => x &&& y)
/-- OR (R110). -/
def execOr (o : Bin) (t : ITy) (s : State) : Out := s.vB2 o t (fun _ x y => x ||| y)
/-- XOR (R110). -/
def execXor (o : Bin) (t : ITy) (s : State) : Out := s.vB2 o t (fun _ x y => x ^^^ y)
/-- ANDN: x and not y (R110). -/
def execAndn (o : Bin) (t : ITy) (s : State) : Out := s.vB2 o t (fun W x y => x &&& (2 ^ W - 1 - y))
/-- SHL by y mod W (R110). -/
def execShl (o : Bin) (t : ITy) (s : State) : Out := s.vB2 o t (fun W x y => x * 2 ^ (y % W) % 2 ^ W)
/-- SHR by y mod W (R110). -/
def execShr (o : Bin) (t : ITy) (s : State) : Out := s.vB2 o t (fun W x y => x / 2 ^ (y % W))
/-- SAR by y mod W, copies of the top bit for every type (R110). -/
def execSar (o : Bin) (t : ITy) (s : State) : Out :=
  s.vB2 o t (fun W x y => (((sext W x) / 2 ^ (y % W)) % (2 ^ W : Int)).toNat)
/-- ROTL by y mod W (R110). -/
def execRotl (o : Bin) (t : ITy) (s : State) : Out :=
  s.vB2 o t (fun W x y => x * 2 ^ (y % W) % 2 ^ W + x / 2 ^ (W - y % W))

/-- Number of ones among the low n bits. -/
def popCount (n x : Nat) : Nat := ((List.range n).filter (fun i => x.testBit i)).length
/-- Zeros above the highest one of n bits. -/
def leadZeros (n x : Nat) : Nat := if x = 0 then n else n - 1 - Nat.log2 x
/-- The low n bits in reverse order. -/
def bitReverse (n x : Nat) : Nat := (List.range n).foldl (fun a i => 2 * a + (x.testBit i).toNat) 0
/-- POPC (R111). -/
def execPopc (o : Un) (t : ITy) (s : State) : Out := s.vB1 o t popCount
/-- CLZ (R111). -/
def execClz (o : Un) (t : ITy) (s : State) : Out := s.vB1 o t leadZeros
/-- BREV (R111). -/
def execBrev (o : Un) (t : ITy) (s : State) : Out := s.vB1 o t bitReverse

/-- The field of BFE (R112). -/
def bfeX (t : ITy) (x b c : Nat) : Int :=
  let W := ITy.width t
  let off := b % 256
  let wid := c % 256
  if W ≤ off ∨ wid = 0 then 0
  else
    let n := Nat.min wid (W - off)
    if t.isSigned then sext n (x / 2 ^ off) else (x / 2 ^ off % 2 ^ n : Nat)
/-- The insertion of BFI (R112). -/
def bfiX (W x b c : Nat) : Nat :=
  let off := c % 256
  let wid := c / 256 % 256
  if W ≤ off ∨ wid = 0 then b
  else
    let n := Nat.min wid (W - off)
    b % 2 ^ off + x % 2 ^ n * 2 ^ off + b / 2 ^ (off + n) * 2 ^ (off + n)
/-- BFE (R112). -/
def execBfe (o : Tern) (t : ITy) (s : State) : Out :=
  s.vRun (vTern o t.wide .int) none false (fun _ ops _ => (bfeX t (ops 0) (ops 1) (ops 2), 0#6))
/-- BFI (R112). -/
def execBfi (o : Tern) (wide : Bool) (s : State) : Out :=
  s.vRun (vTern o wide .int) none false (fun _ ops _ =>
    let W := if wide then 64 else 32; ((bfiX W (ops 0 % 2 ^ W) (ops 1 % 2 ^ W) (ops 2) : Nat), 0#6))
/-- One byte of PRMB: a byte of the eight, or its sign spread (R113). -/
def prmbByte (xy sel : Nat) : Nat :=
  let b := xy / 2 ^ (8 * (sel % 8)) % 256
  if 8 ≤ sel then (if 128 ≤ b then 255 else 0) else b
/-- PRMB (R113). -/
def execPrmb (o : Tern) (s : State) : Out :=
  s.vRun (vTern o false .int) none false (fun _ ops _ =>
    let xy := ops 0 + 2 ^ 32 * ops 1
    (((List.range 4).foldl (fun a k => a + prmbByte xy (ops 2 / 2 ^ (4 * k) % 16) * 2 ^ (8 * k)) 0 : Nat), 0#6))

end Sys2Proof.Machine
end

