-- ==== Sys2Proof/Machine/VecMove.lean ====
section
/-! DEFINITION. Moves, immediates, cross-lane operations, predicates and random numbers of the V slot (R114 to R123). -/

namespace Sys2Proof.Machine

/-- MOV (R114). -/
def execMov (o : Un) (wide : Bool) (s : State) : Out :=
  s.vRun (vUn o wide wide .int) none false (fun _ ops _ => ((ops 0 : Int), 0#6))
/-- SEL: by the predicate's bit of the lane, lane 0 for a scalar (R114). -/
def execSel (o : Bin) (pc : BitVec 3) (wide : Bool) (s : State) : Out :=
  s.vRun (vBin o wide .int) none false (fun i ops l =>
    ((if (i.pre.pred pc.toNat).getLsbD l then ops 0 else ops 1 : Nat), 0#6))
/-- MOVI (R115). -/
def execMovi (p : Pred) (d : Opnd) (imm : W32) (sx : Bool) (s : State) : Out :=
  s.vRun (vNo p (some d) false .int) none false (fun _ _ _ => (if sx then imm.toInt else imm.toNat, 0#6))
/-- MOVH: the immediate in the upper half of 64 bits (R115). -/
def execMovh (p : Pred) (d : Opnd) (imm : W32) (s : State) : Out :=
  s.vRun (vNo p (some d) true .int) none false (fun _ _ _ => ((imm.toNat * 2 ^ 32 : Nat), 0#6))

/-- SHUF (R116). -/
def execShuf (o : Bin) (wide : Bool) (s : State) : Out :=
  s.slotOp (fun _ => none) (fun i =>
    let v := { vBin o wide .xl with xl := true }
    let m := i.act v.p
    s.vPut i v none false (runLanes m false wide (s.vOperand i v) (fun ops _ =>
      let j := ops 1 % 64
      ((if m.getLsbD j then s.vOperand i v 0 j else 0 : Nat), 0#6))))
/-- A lane chosen by the scalar of SRCB (R116). -/
def State.vPick (s : State) (o : Bin) (wide : Bool) (f : Wave → Nat → Nat → Nat) : Out :=
  s.slotOp (fun _ => none) (fun i =>
    let v := { vBin o wide .xl with xl := true }
    let m := i.act v.p
    let n := match o.b.op with | .s k => (readS (s.core i.core) i.pre k.toNat).toNat | _ => 0
    s.vPut i v none false (runLanes m false wide (s.vOperand i v) (fun _ l =>
      let j := f i.pre n l
      ((if m.getLsbD j then s.vOperand i v 0 j else 0 : Nat), 0#6))))
/-- LBRD (R116). -/
def execLbrd (o : Bin) (wide : Bool) (s : State) : Out := s.vPick o wide (fun _ n _ => n % 64)
/-- ROWB (R116). -/
def execRowb (o : Bin) (wide : Bool) (s : State) : Out := s.vPick o wide (fun w n l => l / w.cols * w.cols + n % w.cols)
/-- COLB (R116). -/
def execColb (o : Bin) (wide : Bool) (s : State) : Out := s.vPick o wide (fun w n l => n % w.rows * w.cols + l % w.cols)
/-- TRNS: lane c rows + r takes lane r cols + c (R117). -/
def execTrns (o : Un) (wide : Bool) (s : State) : Out :=
  s.vCross { vUn o wide wide .xl with xl := true } 0 (fun i rd l =>
    ((rd 0 (l % i.pre.rows * i.pre.cols + l / i.pre.rows) : Nat), 0#6))

/-- Identities of Table 1.5, as the bits of the type. -/
def redIdent (t : RTy) (op : RedOp) : Nat :=
  match t, op with
  | .f t, .add => FTy.signed t true 0
  | .f t, .min => FTy.infBits t false
  | .f t, .max => FTy.infBits t true
  | .f _, .or => 0
  | .i t, .min => (t.maxV % (2 ^ ITy.width t : Int)).toNat
  | .i t, .max => (t.minV % (2 ^ ITy.width t : Int)).toNat
  | .i _, _ => 0
/-- One combine of a lane reduction (R32, R35, R118). -/
def redComb (t : RTy) (op : RedOp) (r : RMode) (a b : Nat) : Nat × AFlags :=
  match t, op with
  | .f t, .add => finish t r false 0 (faddX (r == .rd) (decF t a) (decF t b))
  | .f t, .min => fminmax t false a b
  | .f t, .max => fminmax t true a b
  | .f _, .or => (a ||| b, 0#6)
  | .i t, .add => ((a + b) % 2 ^ ITy.width t, 0#6)
  | .i t, .min => (if t.dec a ≤ t.dec b then a else b, 0#6)
  | .i t, .max => (if t.dec a ≤ t.dec b then b else a, 0#6)
  | .i _, .or => (a ||| b, 0#6)
/-- The bits of a reduction type in an element, and the value an element takes (R87). -/
def redBits : RTy → Nat → Nat | .f t, x => x % 2 ^ FTy.width t | .i t, x => x % 2 ^ ITy.width t
def redVal : RTy → Nat → Int | .f _, x => x | .i t, x => t.dec x
/-- Lanes of the list a lane belongs to (R36). -/
def redList (w : Wave) (k : RedKind) (l : Nat) : List Nat :=
  match k with
  | .row => (List.range w.cols).map (fun c => l / w.cols * w.cols + c)
  | .col => (List.range w.rows).map (fun r => r * w.cols + l % w.cols)
  | .all => List.range 64
/-- LRED (R118): flags come with the lists that reach an active lane. A list of one item, a NaN with its payload included, is the result
as it stands, by the tree of R35, where R17 makes NaN results canonical (DESIGN CHOICE, assumption 83). -/
def execLred (o : Un) (t : RTy) (k : RedKind) (op : RedOp) (r : RMode) (s : State) : Out :=
  s.vCross { vUn o false false .xl with xl := true } (redIdent t op) (fun i rd l =>
    let x := treeReduce (redComb t op r) (redIdent t op) ((redList i.pre k l).map (fun j => (redBits t (rd 0 j), 0#6)))
    (redVal t x.1, x.2))
/-- The serial prefix up to a number of items: value and flags, by the pseudocode of R119, which combines the first item with the identity
too. Its prose has that item unchanged: they differ for a first +0 under .add.rd and a NaN (DESIGN CHOICE, assumption 83). -/
def scanX (t : RTy) (op : RedOp) (r : RMode) (xs : List Nat) : Nat × AFlags :=
  xs.foldl (fun acc x => let y := redComb t op r acc.1 x; (y.1, acc.2 ||| y.2)) (redIdent t op, 0#6)
/-- LSCN (R119): the flags collected are those of the combines that reach the lane. An inactive source lane gives the identity, as
R119 has it where R59 lists LSCN under zero (DEDUCED, assumption 84). -/
def execLscn (o : Un) (t : RTy) (excl : Bool) (op : RedOp) (r : RMode) (s : State) : Out :=
  s.vCross { vUn o false false .xl with xl := true } (redIdent t op) (fun i rd l =>
    let w := i.pre
    let n := l % w.cols + (if excl then 0 else 1)
    let x := scanX t op r ((List.range n).map (fun c => redBits t (rd 0 (l / w.cols * w.cols + c))))
    (redVal t x.1, x.2))

/-- PLOG (R120). -/
def execPlog (p : Pred) (pd pa pb : BitVec 3) (tt : BitVec 4) (s : State) : Out :=
  s.vRun (vNo p none false .int) (some pd.toNat) false (fun i _ l =>
    let k := 2 * ((i.pre.pred pa.toNat).getLsbD l).toNat + ((i.pre.pred pb.toNat).getLsbD l).toNat
    ((tt.getLsbD k).toNat, 0#6))
/-- PMOV to a predicate (R121). -/
def execPmovTp (p : Pred) (pd : BitVec 3) (n : BitVec 6) (s : State) : Out :=
  s.vRun { vNo p none false .int with srcs := [(⟨.s n, false⟩, true)] } (some pd.toNat) false (fun _ ops l =>
    (((ops 0).testBit l).toNat, 0#6))
/-- PMOV from a predicate: a scalar operation (R121). -/
def execPmovFp (p : Pred) (sd : BitVec 6) (pa : BitVec 3) (s : State) : Out :=
  s.vRun (vNo p (some (.s sd)) true .int) none false (fun i _ _ => (((i.pre.pred pa.toNat).toNat : Int), 0#6))
/-- PCNT (R122). -/
def execPcnt (p : Pred) (d : Opnd) (pa : BitVec 3) (s : State) : Out :=
  s.vRun (vNo p (some d) false .int) none false (fun i _ _ => ((lanesOf (i.act p &&& i.pre.pred pa.toNat)).length, 0#6))
/-- PFFS (R122). -/
def execPffs (p : Pred) (d : Opnd) (pa : BitVec 3) (s : State) : Out :=
  s.vRun (vNo p (some d) false .int) none false (fun i _ _ => (((lanesOf (i.act p &&& i.pre.pred pa.toNat)).headD 64 : Nat), 0#6))
/-- RAND (R123): one word for a lane, two for a scalar. -/
def execRand (p : Pred) (d : Opnd) (s : State) : Out :=
  s.vRun (vNo p (some d) false .rand) none true (fun i _ l =>
    ((i.drawn l 0 + (if d.isS then 2 ^ 32 * i.drawn 0 1 else 0) : Nat), 0#6))

end Sys2Proof.Machine
end

