-- ==== Sys2Proof/Machine/Dispatch.lean ====
section
/-! DEFINITION. One arm for each instruction: a direct call of its meaning. -/

namespace Sys2Proof.Machine

def exec (i : Instr) (s : State) : Host.Outcome State Fault Refusal :=
  match i with
  | .nop => Sys2Proof.Machine.execNop s
  | .fadd o t r sat => Sys2Proof.Machine.execFadd o t r sat s
  | .fsub o t r sat => Sys2Proof.Machine.execFsub o t r sat s
  | .fmul o t r sat => Sys2Proof.Machine.execFmul o t r sat s
  | .fma o t r sat => Sys2Proof.Machine.execFma o t r sat s
  | .fms o t r sat => Sys2Proof.Machine.execFms o t r sat s
  | .fnma o t r sat => Sys2Proof.Machine.execFnma o t r sat s
  | .fmin o t => Sys2Proof.Machine.execFmin o t s
  | .fmax o t => Sys2Proof.Machine.execFmax o t s
  | .fcmp o t c => Sys2Proof.Machine.execFcmp o t c s
  | .fcls o t => Sys2Proof.Machine.execFcls o t s
  | .frnd o t r => Sys2Proof.Machine.execFrnd o t r s
  | .fcvt o src dst r sat => Sys2Proof.Machine.execFcvt o src dst r sat s
  | .fdot2 o bf r sat => Sys2Proof.Machine.execFdot2 o bf r sat s
  | .fscl o t r sat => Sys2Proof.Machine.execFscl o t r sat s
  | .afcp o => Sys2Proof.Machine.execAfcp o s
  | .frcp o t r => Sys2Proof.Machine.execFrcp o t r s
  | .frsq o t r => Sys2Proof.Machine.execFrsq o t r s
  | .fsqrt o t r => Sys2Proof.Machine.execFsqrt o t r s
  | .fex2 o t r => Sys2Proof.Machine.execFex2 o t r s
  | .flg2 o t r => Sys2Proof.Machine.execFlg2 o t r s
  | .fsin o t r => Sys2Proof.Machine.execFsin o t r s
  | .fcos o t r => Sys2Proof.Machine.execFcos o t r s
  | .ftnh o t r => Sys2Proof.Machine.execFtnh o t r s
  | .fdiv o t r f => Sys2Proof.Machine.execFdiv o t r f s
  | .iadd o t sat => Sys2Proof.Machine.execIadd o t sat s
  | .isub o t sat => Sys2Proof.Machine.execIsub o t sat s
  | .iadc o wide co => Sys2Proof.Machine.execIadc o wide co s
  | .imul o t sat => Sys2Proof.Machine.execImul o t sat s
  | .imulh o t => Sys2Proof.Machine.execImulh o t s
  | .imad o t sat => Sys2Proof.Machine.execImad o t sat s
  | .imin o t => Sys2Proof.Machine.execImin o t s
  | .imax o t => Sys2Proof.Machine.execImax o t s
  | .iabs o t sat => Sys2Proof.Machine.execIabs o t sat s
  | .icmp o t c => Sys2Proof.Machine.execIcmp o t c s
  | .icvt o src dst sat => Sys2Proof.Machine.execIcvt o src dst sat s
  | .ftoi o src dst r => Sys2Proof.Machine.execFtoi o src dst r s
  | .itof o src dst r sat => Sys2Proof.Machine.execItof o src dst r sat s
  | .and o t => Sys2Proof.Machine.execAnd o t s
  | .or o t => Sys2Proof.Machine.execOr o t s
  | .xor o t => Sys2Proof.Machine.execXor o t s
  | .andn o t => Sys2Proof.Machine.execAndn o t s
  | .shl o t => Sys2Proof.Machine.execShl o t s
  | .shr o t => Sys2Proof.Machine.execShr o t s
  | .sar o t => Sys2Proof.Machine.execSar o t s
  | .rotl o t => Sys2Proof.Machine.execRotl o t s
  | .popc o t => Sys2Proof.Machine.execPopc o t s
  | .clz o t => Sys2Proof.Machine.execClz o t s
  | .brev o t => Sys2Proof.Machine.execBrev o t s
  | .bfe o t => Sys2Proof.Machine.execBfe o t s
  | .bfi o wide => Sys2Proof.Machine.execBfi o wide s
  | .prmb o => Sys2Proof.Machine.execPrmb o s
  | .mov o wide => Sys2Proof.Machine.execMov o wide s
  | .sel o pc wide => Sys2Proof.Machine.execSel o pc wide s
  | .shuf o wide => Sys2Proof.Machine.execShuf o wide s
  | .lbrd o wide => Sys2Proof.Machine.execLbrd o wide s
  | .rowb o wide => Sys2Proof.Machine.execRowb o wide s
  | .colb o wide => Sys2Proof.Machine.execColb o wide s
  | .trns o wide => Sys2Proof.Machine.execTrns o wide s
  | .lred o t k op r => Sys2Proof.Machine.execLred o t k op r s
  | .lscn o t excl op r => Sys2Proof.Machine.execLscn o t excl op r s
  | .plog p pd pa pb tt => Sys2Proof.Machine.execPlog p pd pa pb tt s
  | .pmovTp p pd s0 => Sys2Proof.Machine.execPmovTp p pd s0 s
  | .pmovFp p sd pa => Sys2Proof.Machine.execPmovFp p sd pa s
  | .pcnt p d pa => Sys2Proof.Machine.execPcnt p d pa s
  | .pffs p d pa => Sys2Proof.Machine.execPffs p d pa s
  | .rand p d => Sys2Proof.Machine.execRand p d s
  | .movi p d imm sx => Sys2Proof.Machine.execMovi p d imm sx s
  | .movh p d imm => Sys2Proof.Machine.execMovh p d imm s
  | .ld o => Sys2Proof.Machine.execLd o s
  | .ldX o => Sys2Proof.Machine.execLdX o s
  | .st o => Sys2Proof.Machine.execSt o s
  | .stX o => Sys2Proof.Machine.execStX o s
  | .ldb o => Sys2Proof.Machine.execLdb o s
  | .stb o => Sys2Proof.Machine.execStb o s
  | .ldt o => Sys2Proof.Machine.execLdt o s
  | .stt o => Sys2Proof.Machine.execStt o s
  | .ldset o => Sys2Proof.Machine.execLdset o s
  | .atomAdd o => Sys2Proof.Machine.execAtomAdd o s
  | .atomMin o => Sys2Proof.Machine.execAtomMin o s
  | .atomMax o => Sys2Proof.Machine.execAtomMax o s
  | .atomAnd o => Sys2Proof.Machine.execAtomAnd o s
  | .atomOr o => Sys2Proof.Machine.execAtomOr o s
  | .atomXor o => Sys2Proof.Machine.execAtomXor o s
  | .atomXchg o => Sys2Proof.Machine.execAtomXchg o s
  | .atomIncw o => Sys2Proof.Machine.execAtomIncw o s
  | .cas o => Sys2Proof.Machine.execCas o s
  | .waita o => Sys2Proof.Machine.execWaita o s
  | .l1inv p => Sys2Proof.Machine.execL1inv p s
  | .fence p scope kind f => Sys2Proof.Machine.execFence p scope kind f s
  | .drain p dest f => Sys2Proof.Machine.execDrain p dest f s
  | .drainRel p dest f => Sys2Proof.Machine.execDrainRel p dest f s
  | .flush p base ofs staging f => Sys2Proof.Machine.execFlush p base ofs staging f s
  | .bpref p tag base ofs f => Sys2Proof.Machine.execBpref p tag base ofs f s
  | .pref p n base ofs f => Sys2Proof.Machine.execPref p n base ofs f s
  | .send o => Sys2Proof.Machine.execSend o s
  | .recv o => Sys2Proof.Machine.execRecv o s
  | .cpy o => Sys2Proof.Machine.execCpy o s
  | .cpyq o => Sys2Proof.Machine.execCpyq o s
  | .cpyo o => Sys2Proof.Machine.execCpyo o s
  | .cpyr o => Sys2Proof.Machine.execCpyr o s
  | .coll o => Sys2Proof.Machine.execColl o s
  | .mxq o => Sys2Proof.Machine.execMxq o s
  | .mxrd o n1 => Sys2Proof.Machine.execMxrd o n1 s
  | .mxwr o n1 => Sys2Proof.Machine.execMxwr o n1 s
  | .mxz o => Sys2Proof.Machine.execMxz o s
  | .mxcrd o => Sys2Proof.Machine.execMxcrd o s
  | .mxcwr o => Sys2Proof.Machine.execMxcwr o s
  | .br p ofs => Sys2Proof.Machine.execBr p ofs s
  | .brc p c ofs => Sys2Proof.Machine.execBrc p c ofs s
  | .brv p neg pc ofs join => Sys2Proof.Machine.execBrv p neg pc ofs join s
  | .jmpi p s0 => Sys2Proof.Machine.execJmpi p s0 s
  | .call p s0 ofs => Sys2Proof.Machine.execCall p s0 ofs s
  | .ret p s0 => Sys2Proof.Machine.execRet p s0 s
  | .loop s0 ofs sw rot => Sys2Proof.Machine.execLoop s0 ofs sw rot s
  | .lmark n1 => Sys2Proof.Machine.execLmark n1 s
  | .nest s0 si d1 n1 => Sys2Proof.Machine.execNest s0 si d1 n1 s
  | .clause wait fa fb => Sys2Proof.Machine.execClause wait fa fb s
  | .wflg wait => Sys2Proof.Machine.execWflg wait s
  | .twany s0 => Sys2Proof.Machine.execTwany s0 s
  | .twall s0 => Sys2Proof.Machine.execTwall s0 s
  | .tffr sd s0 => Sys2Proof.Machine.execTffr sd s0 s
  | .tclr p s0 => Sys2Proof.Machine.execTclr p s0 s
  | .bar id => Sys2Proof.Machine.execBar id s
  | .gbar id => Sys2Proof.Machine.execGbar id s
  | .sbar n => Sys2Proof.Machine.execSbar n s
  | .shape p r => Sys2Proof.Machine.execShape p r s
  | .rngix p s0 => Sys2Proof.Machine.execRngix p s0 s
  | .gets p sd num => Sys2Proof.Machine.execGets p sd num s
  | .sets p num s0 => Sys2Proof.Machine.execSets p num s0 s
  | .yield => Sys2Proof.Machine.execYield s
  | .exit p => Sys2Proof.Machine.execExit p s
  | .launch s0 => Sys2Proof.Machine.execLaunch s0 s
  | .node n => Sys2Proof.Machine.execNode n s
  | .trap p n => Sys2Proof.Machine.execTrap p n s
  | .bkpt p => Sys2Proof.Machine.execBkpt p s
  | .eretReplay => Sys2Proof.Machine.execEretReplay s
  | .eretResumeAtRpc => Sys2Proof.Machine.execEretResumeAtRpc s
  | .eretEndWave => Sys2Proof.Machine.execEretEndWave s
  | .macroOp p n fields => Sys2Proof.Machine.execMacroOp p n fields s
  | .bundleIssue core => Sys2Proof.Machine.execBundleIssue core s
  | .handlerStart core wave => Sys2Proof.Machine.execHandlerStart core wave s
  | .resultArrival core wave x => Sys2Proof.Machine.execResultArrival core wave x s
  | .carriedOpIssue core => Sys2Proof.Machine.execCarriedOpIssue core s
  | .translateBlock part pc => Sys2Proof.Machine.execTranslateBlock part pc s
  | .translationWalkReturn core wave split => Sys2Proof.Machine.execTranslationWalkReturn core wave split s
  | .variableLoadCompletion core id err => Sys2Proof.Machine.execVariableLoadCompletion core id err s
  | .fdivCompletion core id => Sys2Proof.Machine.execFdivCompletion core id s
  | .atomicPerform core id err => Sys2Proof.Machine.execAtomicPerform core id err s
  | .storePerform core id err => Sys2Proof.Machine.execStorePerform core id err s
  | .fenceSatisfied core id => Sys2Proof.Machine.execFenceSatisfied core id s
  | .flushCompletion core id => Sys2Proof.Machine.execFlushCompletion core id s
  | .bprefCompletion core id => Sys2Proof.Machine.execBprefCompletion core id s
  | .prefCompletion core id => Sys2Proof.Machine.execPrefCompletion core id s
  | .ldsetCompletion core id err => Sys2Proof.Machine.execLdsetCompletion core id err s
  | .waitaWake core x => Sys2Proof.Machine.execWaitaWake core x s
  | .waitaTimeout core x => Sys2Proof.Machine.execWaitaTimeout core x s
  | .waitaDetReread core x => Sys2Proof.Machine.execWaitaDetReread core x s
  | .taskStart cluster array => Sys2Proof.Machine.execTaskStart cluster array s
  | .pairedWindowBoundary cluster => Sys2Proof.Machine.execPairedWindowBoundary cluster s
  | .taskCommit cluster array => Sys2Proof.Machine.execTaskCommit cluster array s
  | .taskCompletion cluster array => Sys2Proof.Machine.execTaskCompletion cluster array s
  | .taskFault cluster array cause => Sys2Proof.Machine.execTaskFault cluster array cause s
  | .sideportStart cluster id => Sys2Proof.Machine.execSideportStart cluster id s
  | .sideportCompletion cluster id => Sys2Proof.Machine.execSideportCompletion cluster id s
  | .emptyEngineOpTagSet cluster id => Sys2Proof.Machine.execEmptyEngineOpTagSet cluster id s
  | .copyStart cluster id => Sys2Proof.Machine.execCopyStart cluster id s
  | .cpyqEntryPush cluster id => Sys2Proof.Machine.execCpyqEntryPush cluster id s
  | .cpyoEntryPop cluster id => Sys2Proof.Machine.execCpyoEntryPop cluster id s
  | .copyCompletion cluster id => Sys2Proof.Machine.execCopyCompletion cluster id s
  | .copyFault cluster id cause => Sys2Proof.Machine.execCopyFault cluster id cause s
  | .collCompletion cluster id agree data => Sys2Proof.Machine.execCollCompletion cluster id agree data s
  | .engineOrphan cluster id => Sys2Proof.Machine.execEngineOrphan cluster id s
  | .barrierOpen grid key => Sys2Proof.Machine.execBarrierOpen grid key s
  | .detOpeningDeadline cluster grid => Sys2Proof.Machine.execDetOpeningDeadline cluster grid s
  | .releaseGroup cluster => Sys2Proof.Machine.execReleaseGroup cluster s
  | .paddingOverrun core id => Sys2Proof.Machine.execPaddingOverrun core id s
  | .overrunHoldEnd core => Sys2Proof.Machine.execOverrunHoldEnd core s
  | .blockPlacement grid => Sys2Proof.Machine.execBlockPlacement grid s
  | .waveEnd core wave => Sys2Proof.Machine.execWaveEnd core wave s
  | .gridEnd grid => Sys2Proof.Machine.execGridEnd grid s
  | .quantumExpiry core => Sys2Proof.Machine.execQuantumExpiry core s
  | .blockResume core => Sys2Proof.Machine.execBlockResume core s
  | .partitionAllocation r => Sys2Proof.Machine.execPartitionAllocation r s
  | .scrubCompletion part => Sys2Proof.Machine.execScrubCompletion part s
  | .partitionFree part => Sys2Proof.Machine.execPartitionFree part s
  | .forcedSave part => Sys2Proof.Machine.execForcedSave part s
  | .contextSwitch part => Sys2Proof.Machine.execContextSwitch part s
  | .thermalPoll temps => Sys2Proof.Machine.execThermalPoll temps s
  | .powerAverageWindow avg peak => Sys2Proof.Machine.execPowerAverageWindow avg peak s
  | .throttleStep => Sys2Proof.Machine.execThrottleStep s
  | .clockStepChange cluster => Sys2Proof.Machine.execClockStepChange cluster s
  | .boostIntervalBoundary => Sys2Proof.Machine.execBoostIntervalBoundary s
  | .energySpan meters => Sys2Proof.Machine.execEnergySpan meters s
  | .energyCommit => Sys2Proof.Machine.execEnergyCommit s
  | .signedReadingRequest part nonce => Sys2Proof.Machine.execSignedReadingRequest part nonce s
  | .attestationRequest nonce => Sys2Proof.Machine.execAttestationRequest nonce s
  | .eolPrediction w => Sys2Proof.Machine.execEolPrediction w s
  | .eyeMarginMeasurement eyes => Sys2Proof.Machine.execEyeMarginMeasurement eyes s
  | .coldReset b => Sys2Proof.Machine.execColdReset b s
  | .warmReset b => Sys2Proof.Machine.execWarmReset b s
  | .watchdogReset b => Sys2Proof.Machine.execWatchdogReset b s
  | .controlStoreUpdate version store => Sys2Proof.Machine.execControlStoreUpdate version store s
  | .pwrctlWrite v => Sys2Proof.Machine.execPwrctlWrite v s
  | .boostWrite cluster v => Sys2Proof.Machine.execBoostWrite cluster v s
  | .islopeWrite cluster v => Sys2Proof.Machine.execIslopeWrite cluster v s
  | .islflrWrite island v => Sys2Proof.Machine.execIslflrWrite island v s
  | .thrmWrite n v => Sys2Proof.Machine.execThrmWrite n v s
  | .sstgWrite j v => Sys2Proof.Machine.execSstgWrite j v s
  | .frrWrite part which k v => Sys2Proof.Machine.execFrrWrite part which k v s
  | .ptrootWrite part v => Sys2Proof.Machine.execPtrootWrite part v s
  | .intraiseWrite part v => Sys2Proof.Machine.execIntraiseWrite part v s
  | .rangeInvalidation part v => Sys2Proof.Machine.execRangeInvalidation part v s
  | .invalidationCompletion part => Sys2Proof.Machine.execInvalidationCompletion part s
  | .imgloadWrite part v => Sys2Proof.Machine.execImgloadWrite part v s
  | .registerWrite part num v => Sys2Proof.Machine.execRegisterWrite part num v s
  | .hostFlushCommand addr len part => Sys2Proof.Machine.execHostFlushCommand addr len part s
  | .companionDeviceAccess a => Sys2Proof.Machine.execCompanionDeviceAccess a s
  | .companionCisternAccess a => Sys2Proof.Machine.execCompanionCisternAccess a s
  | .interruptAcknowledge part n => Sys2Proof.Machine.execInterruptAcknowledge part n s
  | .timeTransfer ns => Sys2Proof.Machine.execTimeTransfer ns s
  | .timeInputLoss => Sys2Proof.Machine.execTimeInputLoss s
  | .remoteRequestArrival r => Sys2Proof.Machine.execRemoteRequestArrival r s
  | .remoteWriteArrival r => Sys2Proof.Machine.execRemoteWriteArrival r s
  | .drainMarkerArrival src count => Sys2Proof.Machine.execDrainMarkerArrival src count s
  | .markerAcknowledge src => Sys2Proof.Machine.execMarkerAcknowledge src s
  | .messageArrival src ch epoch data => Sys2Proof.Machine.execMessageArrival src ch epoch data s
  | .recvHoldTimeout core id => Sys2Proof.Machine.execRecvHoldTimeout core id s
  | .remoteTimeout core id => Sys2Proof.Machine.execRemoteTimeout core id s
  | .stationDown n => Sys2Proof.Machine.execStationDown n s
  | .stationDegraded n => Sys2Proof.Machine.execStationDegraded n s
  | .linkRetry n => Sys2Proof.Machine.execLinkRetry n s
  | .hingeLinkFailure => Sys2Proof.Machine.execHingeLinkFailure s
  | .queueRecordError cluster task id => Sys2Proof.Machine.execQueueRecordError cluster task id s
  | .copyUnitError cluster unit => Sys2Proof.Machine.execCopyUnitError cluster unit s
  | .barrierUnitError e => Sys2Proof.Machine.execBarrierUnitError e s
  | .powerLoss => Sys2Proof.Machine.execPowerLoss s
  | .lineReplacement v => Sys2Proof.Machine.execLineReplacement v s
  | .drainCompletion core id => Sys2Proof.Machine.execDrainCompletion core id s
  | .sendCompletion core id => Sys2Proof.Machine.execSendCompletion core id s
  | .recvCompletion core id => Sys2Proof.Machine.execRecvCompletion core id s
  | .contextCreation r => Sys2Proof.Machine.execContextCreation r s

end Sys2Proof.Machine
end

