-- ==== Sys2Proof/Machine/Sched.lean ====
section
/-! DEFINITION. Time and order: how counts age from one issue cycle to the next, which events an issue cycle may hold and
in what order, and what the next step is (R5, R51, R140, R176, R184, R185, R244, R296, R342, R388; assumptions 3, 6, 11). -/

namespace Sys2Proof.Machine

/-! ### Ageing of a core by one issue cycle -/

def Walk.tick (w : Walk) : Walk := { w with rem := w.rem - 1 }
/-- A split that is not held counts its results, gap, claims, mark and release (R51, R66, R141, R181, R255). -/
def Split.tick (sp : Split) : Split :=
  { sp.pass 1 with gap := sp.gap - 1, win := sp.win.map FRes.tick, claims := sp.claims.tick, bar := sp.bar.map BarWait.tick }
/-- Walks go on whatever holds a core (R160). -/
def Split.walkTick (sp : Split) : Split := { sp with hold := sp.hold.map (fun h : XHold => { h with walks := h.walks.map Walk.tick }) }
/-- Frozen splits of a trapped wave count only their barrier release and their mark of YIELD, outside DET (R136, R141, R188). -/
def Split.tickFrozen (sp : Split) : Split :=
  { sp.pass 1 with bar := sp.bar.map BarWait.tick }
def TrapCtx.tick (t : TrapCtx) (det : Bool) : TrapCtx :=
  { t with startRem := t.startRem - 1, splits := if det then t.splits else t.splits.map (fun e => (e.1, e.2.tickFrozen)) }
/-- A wave's issue cycle; `held` when a hold of its core stops it, all but the marks of YIELD (R141, R185, R194). -/
def Wave.tick (w : Wave) (held det : Bool) : Wave :=
  let one := fun (sp : Split) => (if held && !w.inTrap then sp.pass 1 else sp.tick).walkTick
  { w with splits := w.splits.map (fun e => (e.1, one e.2)), drain := if held && !w.inTrap then w.drain else w.drain.map FRes.tick,
           trap := w.trap.map (fun t => t.tick det), icw := [] }
/-- An operation in flight; under DET a hold stops it, but not the handler's own (R184, R185). -/
def VarOp.tick (o : VarOp) (stopped : Bool) : VarOp :=
  if stopped && !o.handler then { o with kind := o.kind.later }
  else { o with rem := o.rem - 1, reqs := o.reqs.map (fun r : Req => if r.done then r else { r with rem := r.rem - 1 }) }
/-- Idle ages: 0 while a live claim holds the engine, else one more (R177). -/
def Core.idleAges (c : Core) : Ages :=
  let u := c.others 32 0
  { v := if u.v = 0 then c.ages.v + 1 else 0, sfu := if u.sfu = 0 then c.ages.sfu + 1 else 0,
    m := if u.m = 0 then c.ages.m + 1 else 0, x := if u.x = 0 then c.ages.x + 1 else 0 }
/-- A core's issue cycle; on a cluster with a launch its engines' beats and idle ages count also while it holds no wave (R177, R181). -/
def State.tickCore (s : State) (core : Nat) : State :=
  let c := s.core core
  if c.sync = .ahead then s.setCore core { c with sync := .even }
  else if c.waves.isEmpty && c.ops.isEmpty && c.busy = Claims.zero && (s.cluster (clusterOf core)).grid.isNone then s
  else
    let held := s.frozen core
    let det := s.isDet core
    let quantum := match c.grid.bind s.grid? with | some g => g.quantum | none => false
    let c := { c with
      waves := c.waves.map (fun e : Nat × Wave => (e.1, e.2.tick held det)), ops := c.ops.map (fun o : VarOp => (o.tick (held && det)).unsent c.ops s.now), setNow := 0#64,
      earned := if quantum && !c.hold then c.earned.map (fun e : Nat × Nat => (e.1, e.2 + 1)) else c.earned,
      saved := c.saved.map (fun b : SavedBlock => { b with waves := b.waves.map (fun e : Nat × Wave => (e.1, e.2.pass 1)) }),
      busy := if held && det then c.busy else c.busy.tick }
    s.setCore core { c with ages := c.idleAges }

/-! ### Ageing of a cluster -/

/-- A save of the cluster's partition is under way: its engines stand still (R224, R244). -/
def State.pausing (s : State) (cluster : Nat) : Bool := (s.cluster cluster).sync != .behind && s.parts.any (fun e => e.2.clusters.contains cluster && e.2.saving != 0)
/-- Half lane cycles of array time, then the cycles until its writes take effect; in paired mode only in its window; under
DET the padded count (R204, R215, R216). Assumption 35. -/
def Task.tick (t : Task) (cl : Cluster) : Task :=
  if cl.det then { t with pad := t.pad.map (· - 1) }
  else if t.done then { t with pad := t.pad.map (· - 1) }
  else if t.arr.isSome && (!cl.paired || cl.owner == t.core % 2) then { t with left := t.left - cl.ratio.halfLc }
  else t
/-- A copy's count; at a due entry it counts how late the entry is (R243). Under DET the wait of a CPYR for its responses counts from its
padded ic (R386). -/
def CopyCmd.tick (o : CopyCmd) (det : Bool) (now : Nat) : CopyCmd :=
  if o.rem = 0 then { o with late := o.late + 1 } else { o with rem := o.rem - 1, since := if det then now else o.since }
/-- A cluster's issue cycle: its clock, its engines and its eight cores. -/
def State.tickCluster (s : State) (c : Nat) : State :=
  let cl := s.cluster c
  let stop := fun (core uid : Nat) => s.pausing c || s.away core uid || (cl.det && s.frozen core)
  let cl := { cl with
    ic := cl.ic + 1, winIc := cl.winIc + 1, due := cl.due + icTicks cl.ratio cl.mhz,
    tasks := cl.tasks.map (fun t : Task => if stop t.core t.uid then t else t.tick cl),
    sides := cl.sides.map (fun o : SideOp => if o.started && !(stop o.core o.uid) then { o with rem := o.rem - 1 } else o),
    empties := cl.empties.map (fun o : EmptyOp => if stop o.core o.uid then o else { o with rem := o.rem.map (· - 1) }),
    copies := cl.copies.map (fun o : CopyCmd => if !o.started then o else if stop o.core o.uid then { o with since := s.now } else o.tick cl.det s.now) }
  let s := if c < 96 && (s.resident c || cl.engines) then s.updPack (fun p => { p with idle := NMap.put p.idle c p.ns }) else s
  if (s.cluster c).sync = .ahead then s.setCluster c { s.cluster c with sync := .even, due := cl.due }
  else
  let s := s.setCluster c cl
  if c < 96 then (List.range 8).foldl (fun s i => s.tickCore (8 * c + i)) s else s.tickCore (c + 672)

/-! ### What an issue cycle may hold -/

/-- The event an operation in flight may be due for. -/
def VarOp.event (o : VarOp) (core ic : Nat) : List Instr :=
  let due := o.rem == 0 || o.reqs.any (fun r => !r.done && r.rem == 0)
  match o.kind with
  | .waita _ _ _ dl _ =>
    if o.padded then (if o.rem = 0 then [.waitaDetReread core (.mk o.id false)] else [])
    else if (match dl with | some t => decide (t ≤ ic) | none => false) then [.waitaTimeout core (.mk o.id false)]
    else if o.reqs.any (fun r => !r.done && r.rem == 0) || (o.rem == 0 && (o.reqs.isEmpty || o.reqs.any (fun r => r.data2 == 1))) then [.waitaWake core (.mk o.id false)] else []
  | .load _ _ _ _ => if due then [.variableLoadCompletion core o.id 0#64] else []
  | .store _ _ => if due then [.storePerform core o.id 0#64] else []
  | .spStore => if due then [.storePerform core o.id 0#64] else []
  | .atom _ _ _ _ => if due then [.atomicPerform core o.id 0#64] else []
  | .fdiv _ _ _ _ => if due then [.fdivCompletion core o.id] else []
  | .ldset _ _ _ _ _ _ _ => if due then [.ldsetCompletion core o.id 0] else []
  | .fence _ _ => if due then [.fenceSatisfied core o.id] else []
  | .idleFence _ => if due then [.fenceSatisfied core o.id] else []
  | .acqPart => if due then [.fenceSatisfied core o.id] else []
  | .drain _ _ => if due then [.drainCompletion core o.id] else []
  | .flush _ _ => if due then [.flushCompletion core o.id] else []
  | .bpref _ _ => if due then [.bprefCompletion core o.id] else []
  | .pref => if due then [.prefCompletion core o.id] else []
  | .send _ _ _ _ _ _ _ => if due then [.sendCompletion core o.id] else []
  | .recv _ _ _ _ _ _ _ _ => if due then [.recvCompletion core o.id] else []
  | .empty => if due then [.fenceSatisfied core o.id] else []
/-- A flush waits for the wave's earlier stores (R172). Under DET it ends at its padded figure, also before one of a longer figure: there
R184 stands against R172 (DESIGN CHOICE, assumption 90). -/
def VarOp.ready (o : VarOp) (c : Core) : Bool := match o.kind with | .flush _ _ => o.padded || !(storesOpen c.ops o) | _ => true
/-- Results of a core that arrive in this issue cycle. -/
def Core.arrivals (c : Core) (core : Nat) (held : Bool) : List Instr :=
  c.waves.flatMap (fun e =>
    if held && !e.2.inTrap then []
    else ((e.2.splits.flatMap (fun x => x.2.win)) ++ e.2.drain).filterMap (fun r => if r.rem = 0 ∧ !r.arrived then some (.resultArrival core e.1 (.mk r.id 0#64)) else none))
/-- A core held by an overrun that nothing keeps any more: its hold ends in this cycle (R185, R256). -/
def State.overrunOver (s : State) (core : Nat) : Bool :=
  (s.core core).overrun && !(s.dataLate core) &&
  !(match (s.cluster (clusterOf core)).grid.bind s.grid? with | some g => s.barLate g core | none => false)
/-- Events of a core. -/
def State.coreEvents (s : State) (core : Nat) : List Instr :=
  let c := s.core core
  if c.waves.isEmpty && c.ops.isEmpty && c.saved.isEmpty then []
  else
    let held := s.frozen core
    let ic := (s.cluster (clusterOf core)).ic
    let ended := s.overrunOver core
    (if ended then [.overrunHoldEnd core] else []) ++ c.arrivals core held ++
    (c.ops.filter (fun o => (!(held && s.isDet core) || o.handler || ended) && o.ready c)).flatMap (fun o =>
      if o.padded && o.rem == 0 && c.lates.contains o.id then [.paddingOverrun core o.id] else o.event core ic) ++
    (c.ops.filter (fun o => o.overdue c s.now != 0#64)).map (fun o => .remoteTimeout core o.id) ++
    (if c.overrun then c.ops.filterMap (fun o => match o.kind with
      | .recv _ q ch _ _ _ _ none => if o.rem == 0 && !o.handler && s.msgReady q ch o.id then some (.recvCompletion core o.id) else none
      | .send _ q _ n _ _ _ => if o.rem == 0 && !o.handler && s.ownId core q && s.rqRoom q n then some (.sendCompletion core o.id) else none
      | _ => none) else []) ++
    c.waves.flatMap (fun e => match e.2.trap with | some t => if !t.started && t.startRem == 0 then [.handlerStart core e.1] else [] | none => []) ++
    c.waves.flatMap (fun e => e.2.splits.flatMap (fun x => match x.2.hold with
      | some h => (h.walks.filter (fun k => k.rem == 0)).map (fun _ => .translationWalkReturn core e.1 x.1)
      | none => []))
/-- Insert an event in the order of its operation's number. -/
def byId (x : Nat × Instr) : List (Nat × Instr) → List (Nat × Instr)
  | [] => [x]
  | y :: r => if x.1 ≤ y.1 then x :: y :: r else y :: byId x r
/-- An operation that would end as it starts: an empty copy, one that fails at once, or an operation without a lane (R225, R240, R242). -/
def Cluster.instant (cl : Cluster) : Nat :=
  (cl.copies.filter (fun c => !c.started && (cl.allStopped || (c.kind != .coll && (cpTotal c.words == 0 || cw c.words 2 0 3 == 5 || cw c.words 2 4 3 == 5))))).length +
    (cl.empties.filter (fun e => e.rem.isNone)).length
/-- The tests of the operations of a cluster that wait for tags: each is tested in the cycle in which its last tag sets, also when another's
test sets it (R215, R216, R225, R234, R243). -/
def State.startEvents (s : State) (c : Nat) : List Instr :=
  let cl := s.cluster c
  if !cl.engines || s.pausing c then []
  else
    let live := fun (core uid : Nat) => !(s.away core uid) && !(cl.det && s.frozen core && !(s.overrunOver core))
    let tests : List Instr := cl.empties.filterMap (fun o : EmptyOp => if o.rem = none ∧ s.away o.core o.uid = false then some (Instr.emptyEngineOpTagSet c o.id) else none)
    let tstart : List Instr := if cl.tasks.any (fun t : Task => t.arr.isNone && live t.core t.uid) then (List.range 8).map (fun a => Instr.taskStart c a) else []
    let sstart : List Instr := cl.sides.filterMap (fun o : SideOp => if !o.started && live o.core o.uid then some (Instr.sideportStart c o.id) else none)
    let cstart : List Instr := cl.copies.filterMap (fun o : CopyCmd => if (!o.started || (o.unit.isNone && o.kind != .coll)) && live o.core o.uid then some (Instr.copyStart c o.id) else none)
    (List.range (cl.instant + 1)).flatMap (fun _ => tests ++ tstart ++ sstart ++ cstart)
/-- Engine events of a cluster: ends first, in the order of issue, then starts (R215, R216, R230, R234, R243). -/
def State.engineEvents (s : State) (c : Nat) : List Instr :=
  let cl := s.cluster c
  if !cl.engines then []
  else if s.pausing c then []
  else
    let live := fun (core uid : Nat) => !(s.away core uid) && !(cl.det && s.frozen core && !(s.overrunOver core))
    let late := fun (core id : Nat) (i : Instr) => if cl.det && (s.core core).lates.contains id then Instr.paddingOverrun core id else i
    let tasks : List (Nat × Instr) := cl.tasks.filterMap (fun t : Task => if t.arr.isSome && live t.core t.uid then
      (if t.pad = some 0 then some (t.id, late t.core t.id (Instr.taskCompletion c t.seat))
       else if !cl.det && t.left == 0 && t.pad.isNone then some (t.id, Instr.taskCommit c t.seat) else none) else none)
    let sides : List (Nat × Instr) := cl.sides.filterMap (fun o : SideOp => if o.started && o.rem == 0 && live o.core o.uid then some (o.id, late o.core o.id (Instr.sideportCompletion c o.id)) else none)
    let empties : List (Nat × Instr) := cl.empties.filterMap (fun o : EmptyOp => if o.rem = some 0 then some (o.id, Instr.emptyEngineOpTagSet c o.id) else none)
    let copies : List (Nat × Instr) := cl.copies.filterMap (fun o : CopyCmd => if o.started && o.rem == 0 && live o.core o.uid then
      (match o.kind with
        | .cpyq => some (o.id, late o.core o.id (Instr.cpyqEntryPush c o.id))
        | .cpyo => some (o.id, late o.core o.id (Instr.cpyoEntryPop c o.id))
        | .coll => (match o.got with
          | some (agree, data) => some (o.id, Instr.collCompletion c o.id agree data)
          | none => if !s.linkUp then some (o.id, Instr.copyFault c o.id 6)
            else if o.fail.isSome then some (o.id, Instr.collCompletion c o.id false [])
            else if cl.det then some (o.id, Instr.paddingOverrun o.core o.id) else none)
        | _ => some (o.id, late o.core o.id (Instr.copyCompletion c o.id))) else none)
    let ends := ((tasks ++ sides ++ empties ++ copies).foldl (fun l x => byId x l) []).map (·.2)
    let window : List Instr := if cl.paired && cl.winIc % 64 == 0 then [.pairedWindowBoundary c] else []
    let orphans : List Instr := match cl.grid.bind s.grid? with
      | some g => if g.wavesDone then
          (cl.copies.filter (fun x : CopyCmd => !x.started)).map (fun x => Instr.engineOrphan c x.id) ++ (cl.tasks.filter (fun x : Task => x.arr.isNone)).map (fun x => Instr.engineOrphan c x.id) ++
          (cl.sides.filter (fun x : SideOp => !x.started)).map (fun x => Instr.engineOrphan c x.id) ++ (cl.empties.filter (fun x : EmptyOp => x.rem.isNone)).map (fun x => Instr.engineOrphan c x.id)
        else []
      | none => []
    let quiet : List Instr := (cl.copies.filter (fun o : CopyCmd => o.kind == .cpyr && o.overdue s.now && live o.core o.uid &&
      (!cl.det || (o.rem == 0 && (s.core o.core).lates.contains o.id)))).map (fun o => Instr.copyFault c o.id 6)
    window ++ quiet ++ ends ++ s.startEvents c ++ orphans
/-- Cores of a cluster. -/
def clusterCores (c : Nat) : List Nat := if c < 96 then (List.range 8).map (fun i => 8 * c + i) else [c + 672]
/-- Where a barrier's opening is looked for: a block's on the block's own cluster, whose issue cycles its opening ic is one of (R255). -/
def State.barHere (s : State) (g : Grid) (c : Nat) (b : BarSt) : Bool :=
  b.id.key.far || (s.barWaves g b.id).any (fun x => x.1 / 8 == c) || (s.barSaved g b.id).any (fun x => x.1 / 8 == c)
/-- Barrier openings, deadlines and releases of a cluster (R136, R255, R256). -/
def State.barEvents (s : State) (c : Nat) : List Instr :=
  match (s.cluster c).grid.bind s.grid? with
  | none => []
  | some g =>
    if g.bars.isEmpty then []
    else ((List.range g.bars.length).filter (fun k => (g.bars[k]?).any (s.barHere g c))).map (fun k => .barrierOpen g.id k) ++ (if g.det then [.detOpeningDeadline c g.id] else []) ++ [.releaseGroup c]
/-- Ends of waves, quanta and returns of saved blocks. -/
def State.blockEvents (s : State) (c : Nat) : List Instr :=
  (clusterCores c).flatMap (fun core =>
    let k := s.core core
    k.waves.filterMap (fun e => if e.2.exited then some (.waveEnd core e.1) else none) ++
    (if k.earned.isEmpty && k.leaving.isNone then [] else if (s.expired core).isSome then [.quantumExpiry core] else []) ++
    (if k.saved.isEmpty then [] else [.blockResume core]))
/-- Events of grids, contexts and markers: those of the cluster's partition. -/
def State.partEvents (s : State) (c : Nat) : List Instr :=
  s.parts.flatMap (fun e =>
    if e.2.clusters.contains c || e.2.cmd + 96 == c then
      (s.grids.filter (fun g => g.part == e.1)).flatMap (fun g =>
        (if g.wavesDone then [.gridEnd g.id] else []) ++ (if g.armed && g.waiting then [.blockPlacement g.id] else [])) ++
      (if e.2.saving != 0 || s.forcedDue e.2 then [.forcedSave e.1] else []) ++
      (if e.2.run.isNone && e.2.next.isSome then [.contextSwitch e.1] else [])
    else []) ++
  (s.pack.peers.filter (fun e => !e.2.marks.isEmpty)).map (fun e => .markerAcknowledge e.1)
/-- An end that may set tags after the tests of a cycle: a wave's closes its queues' streams, an orphan's sets its own (R234, R246). -/
def setsLate : Instr → Bool | .waveEnd _ _ => true | .engineOrphan _ _ => true | _ => false
/-- Every event a cluster's issue cycle may hold, in order (assumption 11). What waits for tags is tested again behind the events that may set
some in this cycle (R216, R225, R243). -/
def State.agenda (s : State) (c : Nat) : List Instr :=
  let l := s.engineEvents c ++ s.blockEvents c
  s.barEvents c ++ (clusterCores c).flatMap (fun k => s.coreEvents k) ++ l ++ (if l.any setsLate then s.startEvents c else []) ++ s.partEvents c

/-! ### Time (R5, R140, R372) -/

/-- The time base advances with the clocks, slewed by at most 100 ppm (R372). Assumption 47. -/
def Pack.pass (p : Pack) (dt : Nat) : Pack :=
  let lim : Int := dt / 10000
  let a : Int := if lim < p.slew then lim else if p.slew < -lim then -lim else p.slew
  let t := (p.sub : Int) + dt + a
  { p with slew := p.slew - a, sub := (t % tpNs).toNat, ns := (p.ns + (t / tpNs).toNat) % 2 ^ 64 }
/-- Time goes on to a tick; the time a partition has a grid in flight is counted for the attribution of energy (R349). -/
def State.passTo (s : State) (t : Nat) : State :=
  let k := s.pack.pass (t - s.now)
  { s with now := t, pack := k, parts := s.parts.map (fun e : Nat × Part =>
      (e.1, if s.running e.1 then { e.2 with busyNs := e.2.busyNs + (k.ns - s.pack.ns) } else e.2)) }
/-- The cluster whose issue cycle comes next, and when. -/
def State.nextCluster (s : State) : Option (Nat × Nat) :=
  s.clusters.foldl (fun b e => match b with
    | none => some (e.1, e.2.due)
    | some x => if e.2.due < x.2 then some (e.1, e.2.due) else some x) none
/-- The period in ns of what the package does regularly (R341, R342, R350). -/
def period : Instr → Option Nat
  | .boostIntervalBoundary => some 4000
  | .throttleStep => some 100000
  | .energyCommit => some 1000000000
  | _ => none

/-! ### The next step -/

/-- What the next step does: an event or an issue, at a state; or only time passes. -/
inductive Act where
  | run (i : Instr) (s : State)
  | idle (s : State)
  deriving DecidableEq, Repr

/-- The timer of the thermal polls: the entry without readings. -/
def isPoll : Instr → Bool | .thermalPoll l => l.isEmpty | _ => false
/-- The next poll, at the next multiple of 100 µs of the time base; one timer is enough. -/
def State.nextPoll (s : State) : State :=
  if s.inputs.any (fun e => isPoll e.2) then s else s.schedule ((100000 - s.pack.ns % 100000) * tpNs) (.thermalPoll [])
/-- Readings among the inputs say what the sensors show from then on. They are taken by the poll of each 100 µs of the time base, and by it
alone (R345). -/
def State.pollInput (s : State) (temps : List Nat) : Act :=
  if !temps.isEmpty then .idle (s.updPack (fun p => { p with seen := temps ++ p.seen.drop temps.length })).nextPoll
  else
    let k := s.pack.ns / 100000
    if k = s.pack.polled then .idle s.nextPoll
    else .run (.thermalPoll s.pack.seen) (s.updPack (fun p => { p with polled := k })).nextPoll
/-- Without its rails the package answers to a cold reset alone (R346). -/
def Pack.deaf (p : Pack) (i : Instr) : Bool := p.power == .off && (match i with | .coldReset _ => false | _ => true)
/-- A party's or a timer's event is due: a regular one comes again at the next multiple of its period of the time base, and
waits if the slewed time base is not there yet. Assumption 14. -/
def State.popInput (s : State) (t : Nat) (i : Instr) (rest : List (Nat × Instr)) : Act :=
  let s := { s.passTo (Nat.max s.now t) with inputs := rest }
  match i, period i with
  | .thermalPoll temps, _ => s.pollInput temps
  | _, none => if s.pack.deaf i then .idle s else .run i s
  | _, some p =>
    let ahead := p - s.pack.ns % p
    let again := s.schedule (ahead * tpNs) i
    if !(s.pack.deaf i) && decide (s.pack.ns % p < p / 2) then .run i again else .idle again
/-- CPYQ's pushes follow the issue of their cycle: the wave's reservation comes first (R245). Tags they set are tested after them. -/
def afterIssue : Instr → Bool | .cpyqEntryPush _ _ => true | _ => false
def Sync.caught : Sync → Sync | .behind => .even | x => x
/-- A hold that came between two cycles of a cluster has had the cycle it still counted (R194). -/
def State.catchUp (s : State) (c : Nat) : State :=
  ((clusterCores c).foldl (fun s k => s.updCore k (fun x => { x with sync := x.sync.caught })) s).updCluster c (fun x => { x with sync := x.sync.caught })
/-- A cluster's issue cycle opens: its counts pass and its events are listed. -/
def State.openCycle (s : State) (c : Nat × Nat) : State :=
  let s := (s.passTo (Nat.max s.now c.2)).tickCluster c.1
  let l := s.agenda c.1
  let pushes := l.filter afterIssue
  { s.catchUp c.1 with cursor := some { cluster := c.1, nextCore := 0, agenda := l.filter (fun i => !(afterIssue i)), first := some s.nextId,
                                        late := if pushes.isEmpty then [] else pushes ++ s.startEvents c.1 } }
/-- Time passes to the next input or issue cycle. -/
def State.wait (s : State) : Act :=
  let s := { s with cursor := none }
  match s.inputs, (if s.pack.power = .off then none else s.nextCluster) with
  | [], none => .idle (s.passTo (s.now + tpu))
  | (t, i) :: r, none => s.popInput t i r
  | [], some c => .idle (s.openCycle c)
  | (t, i) :: r, some c =>
    if t ≤ c.2 then s.popInput t i r
    else .idle (s.openCycle c)
/-- The next core of an issue cycle that has a wave, counted from one on. -/
def State.nextCore (s : State) (c k : Nat) : Option (Nat × Nat) :=
  let l := clusterCores c
  (((List.range l.length).filter (fun j => decide (k ≤ j))).find? (fun j => !((s.core (l.getD j 0)).waves.isEmpty))).map (fun j => (j, l.getD j 0))
/-- The next step: the rest of the issue cycle's events, then each core's issue, then the events that follow it, then time. -/
def State.nextAct (s : State) : Act :=
  match s.cursor with
  | none => s.wait
  | some k =>
    match k.agenda with
    | i :: r => .run i { s with cursor := some { k with agenda := r } }
    | [] =>
      match s.nextCore k.cluster k.nextCore with
      | some (j, core) =>
        let s := { s with cursor := some { k with nextCore := j + 1 } }
        .run (if s.picksCarried core then .carriedOpIssue core else .bundleIssue core) s
      | none =>
        match k.late with
        | i :: r => .run i { s with cursor := some { k with late := r } }
        | [] => s.wait

/-! ### The slots of a staged bundle -/

/-- The C slot's instruction: ERET's meaning is the action TRESUME holds (R191). Assumption 13. -/
def Issue.control (i : Issue) : Instr :=
  match i.bundle.c with
  | .eretReplay => match i.pre.action with | 1 => .eretResumeAtRpc | 2 => .eretEndWave | _ => .eretReplay
  | c => c
/-- The slots that act now: M alone while the bundle is held for a translation (R160), else V, M, X and C. -/
def State.slots (s : State) (i : Issue) : List Instr :=
  if s.issueHeld i then [i.bundle.m] else [i.bundle.v, i.bundle.m, i.bundle.x, i.control]

/-! ### A program placed by hand -/

/-- The base address of hand-placed code: the first page of stack 0. -/
def placedCode : Nat := 0x10000
/-- The partition of hand-placed code: cluster 0, stack 0, the tables on. -/
def placedPart : Part :=
  { Part.new { slot := 0, islands := [0], wins := [(0, unit30)], cisBase := 0, cisLen := 65536, acc := 0, staging := [], peers := [], cmdCore := 0, ring := 0 }
      [0, 1, 2, 3] with scrub := none, ptroot := 1#64 }
/-- The launch record of hand-placed code: one wave with every register, in normal mode. -/
def placedRecord (bey : Bool) : List W64 :=
  [BitVec.ofNat 64 (2 ^ 48 + 2 ^ 40 * 128 + 2 ^ 32 * 64 + 2 ^ 22 * 64 + 2 ^ 17 + (if bey then 2 ^ 14 else 0)), 0x0000000100000001#64, 0x10001#64,
   BitVec.ofNat 64 placedCode] ++ List.replicate 12 0#64
/-- The grid of hand-placed code, running on core 0. -/
def placedGrid (bey : Bool) : Grid :=
  { Grid.ofRecord 1 0 1 (placedRecord bey) with
    cores := [0], next := 1, gangs := [(0, 1)], blocks := [(0, .on 0)], started := [0], armed := true }
/-- The page of hand-placed code in the micro-TLB, with every permission. -/
def placedPage : TlbEnt := { part := 0, vbase := 0, len := 2097152, pbase := 0, r := true, w := true, x := true }
/-- An instruction stored where the first wave of core 0 fetches next, the wave being the one to issue now. -/
def State.placeWord (s : State) (bey : Bool) (w : Nat) : State :=
  let g := placedGrid bey
  let s := { s with parts := [(0, placedPart)], grids := [g], nextId := 3, cursor := some { cluster := 0, nextCore := 0, agenda := []} }
  let s := s.updMem (fun m => { m with home := Memory.store m.home placedCode 32 w })
  let s := s.updCluster 0 (fun c => { c with grid := some 1 })
  s.updCore 0 (fun c => { c with
    waves := [(0, g.wave 2 0 0 0 0 [])], size := 64, utlb := [placedPage], grid := some 1 })

end Sys2Proof.Machine
end

