-- ==== Sys2Proof/Machine/Step.lean ====
section
/-! DEFINITION. One step of the machine: an event or an issue runs through `exec`, and the slots of a bundle it stages act
in the same step. -/

namespace Sys2Proof.Machine

/-- Run instructions in order, stopping at the first that does not answer a next state. -/
def execAll : List Instr → State → Out
  | [], s => .next s
  | i :: r, s =>
    match exec i s with
    | .next t => execAll r t
    | x => x

/-- The slots of a staged bundle act, and the bundle is done. -/
def runStaged (s : State) : Out :=
  match s.issue with
  | none => .next s
  | some i =>
    match execAll (s.slots i) s with
    | .next t => .next (t.bundleEnd i)
    | x => x

/-- One step: what comes next runs, then the slots of the bundle it staged. -/
def step (s : State) : Host.Outcome State Fault Refusal :=
  match s.nextAct with
  | .idle t => .next t
  | .run i t =>
    match exec i t with
    | .next u => runStaged u
    | x => x

/-- A state whose next step fetches and runs an instruction: up to 64 bits a Beyrum word of a carried wave, else a bundle
of a native wave (assumption 5). -/
def State.withFetchWord (s : State) (nbits w : Nat) : State := s.placeWord (decide (nbits ≤ 64)) (w % 2 ^ nbits)

end Sys2Proof.Machine
end

