-- ==== Sys2Proof/Safety.lean ====
section
/-! DEFINITION. What counts as a safe run, the invariants of the machine, and what the statements observe of a state: the split a
bundle belongs to, the result an operation puts in flight, and what an operation leaves alone. -/

namespace Sys2Proof.Machine

/-! ### Safe runs -/

/-- A run of k steps that ends with neither a fault nor a refusal. -/
def SafeFor (k : Nat) (s : State) : Prop := ∃ t, Sys2Proof.core.run k s = .next t
/-- A safe run goes on for ever. -/
def Safe (s : State) : Prop := ∀ k, SafeFor k s

/-! ### Invariants -/

/-- The memories are in canonical form: addresses rise and no byte equal to an unlisted one is listed. -/
def Mems.wf (m : Mems) : Prop := m.home.wf = true ∧ m.hbm.wf = true ∧ m.stg.wf = true
/-- Between steps no bundle is half executed (R124). -/
def State.quiet (s : State) : Prop := s.issue = none

/-! ### What the statements observe -/

/-- A bundle of a split that lives is being executed. -/
def Executing (s : State) (i : Issue) : Prop :=
  s.issue = some i ∧ ∃ c w sp, NMap.get? s.cores i.core = some c ∧ NMap.get? c.waves i.wave = some w ∧ NMap.get? w.splits i.split = some sp

/-- The wave and the split of the bundle being executed, as they stand. -/
def State.waveAt (s : State) (i : Issue) : Wave := s.wave i.core i.wave
def State.splitAt (s : State) (i : Issue) : Split := (s.waveAt i).split i.split

/-- Nothing outside the cores differs, but for numbers of new things and free values. -/
def OnlyCores (s t : State) : Prop :=
  t.mem = s.mem ∧ t.clusters = s.clusters ∧ t.parts = s.parts ∧ t.grids = s.grids ∧ t.pack = s.pack ∧ t.now = s.now ∧
  t.inputs = s.inputs ∧ t.issue = s.issue ∧ t.cursor = s.cursor
/-- No other core differs. -/
def OtherCores (s t : State) (core : Nat) : Prop := ∀ c, c ≠ core → NMap.get? t.cores c = NMap.get? s.cores c
/-- No other wave of the core differs. -/
def OtherWaves (s t : State) (core w : Nat) : Prop := ∀ x, x ≠ w → t.wave? core x = s.wave? core x
/-- No other split of the wave differs. -/
def OtherSplits (s t : State) (i : Issue) : Prop := ∀ n, n ≠ i.split → NMap.get? (t.waveAt i).splits n = NMap.get? (s.waveAt i).splits n

/-- What stands in a core beside its waves and its queues: scratchpad, tags, caches, operations in flight. -/
def Core.rest (c : Core) : Core := { c with waves := [], queues := [] }
/-- What stands in a wave beside its splits and its random index: registers, predicates, flags, counters. -/
def Wave.rest (w : Wave) : Wave := { w with splits := [], rngidx := 0#48 }
/-- What stands in a split beside its window and its place in an expansion. -/
def Split.rest (sp : Split) : Split := { sp with win := [], mpc := none }

/-- The frame of the V slot: an operation changes its split's window, the queues it names and the random index (R45, R51). -/
def VFrame (s t : State) (i : Issue) : Prop :=
  OnlyCores s t ∧ OtherCores s t i.core ∧ OtherWaves s t i.core i.wave ∧ OtherSplits s t i ∧
  (t.core i.core).rest = (s.core i.core).rest ∧ (t.waveAt i).rest = (s.waveAt i).rest ∧ (t.splitAt i).rest = (s.splitAt i).rest

/-- The destination an operand code stands for (R43): the registers are physical; a queue gives the ring place after its
entries. -/
def destIs (i : Issue) (o : Option Opnd) (wide : Bool) (pd : Option Nat) (d : Dest) : Prop :=
  match pd, o with
  | some n, _ => d = .p n
  | none, some (.v n) => d = .v (i.pre.vkey n.toNat) (if wide then some (i.pre.vkey (n.toNat + 1)) else none)
  | none, some (.s n) => d = .s (i.pre.skey n.toNat)
  | none, some (.q n) => ∃ slot, d = .q n.toNat slot
  | none, _ => d = .none

/-- An element of a result: a scalar or a pair holds 64 bits, any other element 32 (R87). -/
def element (scalar wide : Bool) (x : Int) : W64 :=
  if scalar || wide then BitVec.ofInt 64 x else (BitVec.ofInt 32 x).zeroExtend 64

/-- A V-slot operation puts one result in flight: older results of its registers die in its lanes (R53), the new one stands last
in the window with its latency and penalty (Table 7.1, R56); its lanes hold f of the lane, a scalar's f of lane 0 if some lane
is active (R46), and it carries the flags of the active lanes, none where there is none (R31). -/
def Launches (s t : State) (i : Issue) (v : VInfo) (pd : Option Nat) (f : Nat → Int × AFlags) : Prop :=
  ∃ r : FRes,
    (t.splitAt i).win = ((s.splitAt i).kill r.dest r.mask).win ++ [r] ∧
    destIs i v.dst v.dwide pd r.dest ∧ r.isn = i.isn ∧ r.mem = false ∧ r.rem = vLat (s.ratio i.core) v.cls + i.pen ∧
    r.arrived = false ∧ r.live = r.mask ∧ r.wide = v.dwide ∧ r.scalar = v.isScalar ∧
    (v.isScalar = true →
      r.mask = (if i.act v.p = 0#64 then 0#64 else 1#64) ∧ (i.act v.p = 0#64 → r.flags = 0#6) ∧
      (i.act v.p ≠ 0#64 → RMap.rd r.vals 0 = element true v.dwide (f 0).1 ∧ r.flags = (f 0).2)) ∧
    (v.isScalar = false →
      r.mask = i.act v.p ∧
      (∀ l, l < 64 → (i.act v.p).getLsbD l = true → RMap.rd r.vals l = element false v.dwide (f l).1) ∧
      (∀ k, r.flags.getLsbD k = true ↔ ∃ l, l < 64 ∧ (i.act v.p).getLsbD l = true ∧ ((f l).2).getLsbD k = true))

/-- The random index moves by one for an operation that draws, outside an expansion (R40, R146). -/
def RngMoves (s t : State) (i : Issue) (rng : Bool) : Prop :=
  i.inMacro = false → (t.waveAt i).rngidx = if rng then (s.waveAt i).rngidx + 1 else (s.waveAt i).rngidx

/-- A queue that has lost its first k entries. -/
def OpQueue.popped (q : OpQueue) (k : Nat) : OpQueue :=
  { q with head := if k = 0 then q.head else (q.head + k) % 8, ents := q.ents.drop k }
/-- A queue with a place for a result behind its entries. -/
def OpQueue.reserved (q : OpQueue) : OpQueue :=
  { q with ents := q.ents ++ [{ slot := (q.head + q.ents.length) % 8, filled := false, data := [] }] }
/-- An operand is queue n. -/
def namesQueue (n : Nat) : Opnd → Bool | .q m => m.toNat == n | _ => false
/-- Queue n after an operation: each source field that names it takes its head, one field at most in a well-formed operation, and as the
destination it has a place for the result (R58). -/
def queueAfter (v : VInfo) (pd : Option Nat) (n : Nat) (q : OpQueue) : OpQueue :=
  let x := q.popped (v.queues.filter (fun m => m.toNat == n)).length
  if pd = none ∧ v.dst.any (namesQueue n) = true then x.reserved else x
/-- Each queue an operation names as a source loses its head, whatever the active lanes; its destination queue has a place reserved; every
other queue stands (R58). -/
def QueuesPop (s t : State) (i : Issue) (v : VInfo) (pd : Option Nat) : Prop :=
  ∀ n, NMap.get? (t.core i.core).queues n = (NMap.get? (s.core i.core).queues n).map (queueAfter v pd n)

/-- All that a V-slot operation of fixed latency does. -/
def VDoes (s t : State) (i : Issue) (v : VInfo) (pd : Option Nat) (rng : Bool) (f : Nat → Int × AFlags) : Prop :=
  Launches s t i v pd f ∧ VFrame s t i ∧ RngMoves s t i rng ∧ QueuesPop s t i v pd

end Sys2Proof.Machine
end

