-- ==== Sys2Proof/Certificates/Slice0/Obligations.lean ====
section
/-! DEFINITION. The statements for the provers, with the tables of the manual they are stated by. -/

namespace Sys2Proof.Spec
open Sys2Proof.Machine

/-! ### The V slot: values by lane -/

/-- The value and the flags of a lane: from the bundle, the lane's operands by number, and the lane. -/
abbrev LaneRule := Issue → (Nat → Nat) → Nat → Int × AFlags

/-- Operations whose destination is a predicate number. -/
def predDest : Instr → Option Nat
  | .fcmp o _ _ => some o.pd.toNat
  | .icmp o _ _ => some o.pd.toNat
  | .plog _ pd _ _ _ => some pd.toNat
  | .pmovTp _ pd _ => some pd.toNat
  | _ => none

/-- Operations that consume one RNG index (R40): every rounding under .sr, and RAND. -/
def draws : Instr → Bool
  | .fadd _ _ r _ => r == .sr | .fsub _ _ r _ => r == .sr | .fmul _ _ r _ => r == .sr
  | .fma _ _ r _ => r == .sr | .fms _ _ r _ => r == .sr | .fnma _ _ r _ => r == .sr
  | .frnd _ _ r => r == .sr | .fcvt _ _ _ r _ => r == .sr | .fdot2 _ _ r _ => r == .sr | .fscl _ _ r _ => r == .sr
  | .frcp _ _ r => r == .sr | .frsq _ _ r => r == .sr | .fsqrt _ _ r => r == .sr | .fex2 _ _ r => r == .sr
  | .flg2 _ _ r => r == .sr | .fsin _ _ r => r == .sr | .fcos _ _ r => r == .sr | .ftnh _ _ r => r == .sr
  | .ftoi _ _ _ r => r == .sr | .itof _ _ _ r _ => r == .sr
  | .rand _ _ => true
  | _ => false

/-- The random word a rounding uses: the draw of its lane under .sr (R26, R39). -/
def word (i : Issue) (r : RMode) (l : Nat) : Nat := if r = .sr then (draw i.pre.rngseed i.pre.rngidx l 0).toNat else 0

/-- R92: a signalling NaN sets NV; an invalid exact result gives T.qnan with NV, any NaN T.qnan, else the exact result is
rounded once. -/
def roundOnce (t : FTy) (r : RMode) (sat : Bool) (u : Nat) (ins : List XV) (exact : XV × Bool) : Int × AFlags :=
  let nv := flIf (ins.any XV.isSNan) flNV
  if exact.2 then ((FTy.qnan t : Int), nv ||| flNV)
  else if ins.any XV.isNan then ((FTy.qnan t : Int), nv)
  else let y := roundFmt t r sat u exact.1; ((y.1 : Int), y.2 ||| nv)
/-- The exact product and sum of Table 4.3: a product of zero and infinity is invalid even against a NaN. -/
def mulAdd (rd : Bool) (x y z : XV) : XV × Bool :=
  let p := mulX x y
  if p.2 then p else addX rd p.1 z

/-- FADD, FSUB, FMUL, FMA, FMS and FNMA (R92, Table 4.3). -/
def floatArith : Instr → Option LaneRule
  | .fadd _ t r sat => some fun i x l => let a := decF t (x 0); let b := decF t (x 1)
      roundOnce t r sat (word i r l) [a, b] (addX (r == .rd) a b)
  | .fsub _ t r sat => some fun i x l => let a := decF t (x 0); let b := decF t (x 1)
      roundOnce t r sat (word i r l) [a, b] (addX (r == .rd) a b.negate)
  | .fmul _ t r sat => some fun i x l => let a := decF t (x 0); let b := decF t (x 1)
      roundOnce t r sat (word i r l) [a, b] (mulX a b)
  | .fma _ t r sat => some fun i x l => let a := decF t (x 0); let b := decF t (x 1); let c := decF t (x 2)
      roundOnce t r sat (word i r l) [a, b, c] (mulAdd (r == .rd) a b c)
  | .fms _ t r sat => some fun i x l => let a := decF t (x 0); let b := decF t (x 1); let c := decF t (x 2)
      roundOnce t r sat (word i r l) [a, b, c] (mulAdd (r == .rd) a b c.negate)
  | .fnma _ t r sat => some fun i x l => let a := decF t (x 0); let b := decF t (x 1); let c := decF t (x 2)
      roundOnce t r sat (word i r l) [a, b, c] (mulAdd (r == .rd) a.negate b c)
  | _ => none

/-- R32 on values: −0 below +0. -/
def below (x y : XV) : Bool := x.lt y || (x.eqv y && x.neg? && !y.neg?)
/-- FMIN and FMAX on bits: NaN gives T.qnan, NV for a signalling one (R32, R93). -/
def pick (t : FTy) (greater : Bool) (a b : Nat) : Int × AFlags :=
  let x := decF t a
  let y := decF t b
  if x.isNan || y.isNan then ((FTy.qnan t : Int), flIf (x.isSNan || y.isSNan) flNV)
  else (((if (if greater then below x y else below y x) then b else a) % 2 ^ FTy.width t : Nat), 0#6)
/-- Conditions of Table 4.4 on floats. -/
def fcond (c : FCond) (x y : XV) : Bool :=
  let un := x.isNan || y.isNan
  match c with
  | .eq => !un && x.eqv y | .ne => un || !(x.eqv y) | .lt => !un && x.lt y | .le => !un && (x.lt y || x.eqv y)
  | .gt => !un && y.lt x | .ge => !un && (y.lt x || x.eqv y) | .ord => !un | .un => un
/-- Conditions that set NV for any NaN (R94). -/
def fcondOrders : FCond → Bool | .lt => true | .le => true | .gt => true | .ge => true | _ => false
/-- Table 4.5: the bit of a class. A subnormal lies below 2 to the least exponent. -/
def classBit (t : FTy) (x : XV) : Nat :=
  match x with
  | .nan sg => if sg then 0 else 1
  | .inf neg => if neg then 2 else 9
  | .fin neg n d =>
    if n = 0 then (if neg then 5 else 6)
    else if log2Rat n d < FTy.emin t then (if neg then 4 else 7)
    else (if neg then 3 else 8)

/-- FMIN, FMAX, FCMP and FCLS (R93, R94, R96). -/
def floatPick : Instr → Option LaneRule
  | .fmin _ t => some fun _ x _ => pick t false (x 0) (x 1)
  | .fmax _ t => some fun _ x _ => pick t true (x 0) (x 1)
  | .fcmp _ t c => some fun _ x _ =>
      let a := decF t (x 0); let b := decF t (x 1)
      (((fcond c a b).toNat : Int), flIf (a.isSNan || b.isSNan || (fcondOrders c && (a.isNan || b.isNan))) flNV)
  | .fcls _ t => some fun _ x _ => ((2 ^ classBit t (decF t (x 0)) : Nat), 0#6)
  | _ => none

/-- FRND, FCVT, FDOT2, FSCL and AFCP (R97 to R101). -/
def floatConvert : Instr → Option LaneRule
  | .frnd _ t r => some fun i x l => let y := roundIntegral t r (word i r l) (decF t (x 0)); ((y.1 : Int), y.2)
  | .fcvt _ src dst r sat => some fun i x l =>
      let a := decFmt src (x 0)
      let c := encFmt dst r sat (word i r l) a
      ((c.1 : Int), c.2 ||| flIf a.isSNan flNV)
  | .fdot2 _ bf r sat => some fun i x l =>
      let t : FTy := if bf then .bf16 else .f16
      let x0 := decF t (x 0 % 2 ^ 16); let x1 := decF t (x 0 / 2 ^ 16 % 2 ^ 16)
      let y0 := decF t (x 1 % 2 ^ 16); let y1 := decF t (x 1 / 2 ^ 16 % 2 ^ 16)
      let c := decF .f32 (x 2)
      let p := mulX x0 y0
      let q := mulX x1 y1
      let a := addX (r == .rd) p.1 q.1
      roundOnce .f32 r sat (word i r l) [x0, y0, x1, y1, c]
        (if p.2 then p else if q.2 then q else if [x0, y0, x1, y1, c].any XV.isNan then (.nan false, false)
         else if a.2 then a else addX (r == .rd) a.1 c)
  | .fscl _ t r sat => some fun i x l =>
      let a := decF t (x 0)
      roundOnce t r sat (word i r l) [a] (a.scale2 (sext 32 (x 1)), false)
  | .afcp _ => some fun _ x _ =>
      let r := compose (x 0 % 2 ^ 32) (x 0 / 2 ^ 32 % 2 ^ 32) (x 1 % 2 ^ 32) (x 1 / 2 ^ 32 % 2 ^ 32)
      ((r.1.1 + 2 ^ 32 * r.1.2 : Nat), r.2)
  | _ => none

/-- The special functions (R102). -/
def specialFun : Instr → Option (SFun × FTy × RMode)
  | .frcp _ t r => some (.rcp, t, r) | .frsq _ t r => some (.rsq, t, r) | .fsqrt _ t r => some (.sqrt, t, r)
  | .fex2 _ t r => some (.ex2, t, r) | .flg2 _ t r => some (.lg2, t, r) | .fsin _ t r => some (.sin, t, r)
  | .fcos _ t r => some (.cos, t, r) | .ftnh _ t r => some (.tnh, t, r) | _ => none
/-- The columns of Table 4.6, a value with its flags for +0, -0, +infinity, -infinity and a finite x below 0; none for the general rule. -/
def table46 : SFun → List (Option (XV × AFlags))
  | .rcp => [some (.inf false, flDZ), some (.inf true, flDZ), some (.zero false, 0#6), some (.zero true, 0#6), none]
  | .rsq => [some (.inf false, flDZ), some (.inf true, flDZ), some (.zero false, 0#6), some (.nan false, flNV), some (.nan false, flNV)]
  | .sqrt => [some (.zero false, 0#6), some (.zero true, 0#6), some (.inf false, 0#6), some (.nan false, flNV), some (.nan false, flNV)]
  | .ex2 => [some (.ofInt 1, 0#6), some (.ofInt 1, 0#6), some (.inf false, 0#6), some (.zero false, 0#6), none]
  | .lg2 => [some (.inf true, flDZ), some (.inf true, flDZ), some (.inf false, 0#6), some (.nan false, flNV), some (.nan false, flNV)]
  | .sin => [some (.zero false, 0#6), some (.zero true, 0#6), some (.nan false, flNV), some (.nan false, flNV), none]
  | .cos => [some (.ofInt 1, 0#6), some (.ofInt 1, 0#6), some (.nan false, flNV), some (.nan false, flNV), none]
  | .tnh => [some (.zero false, 0#6), some (.zero true, 0#6), some (.ofInt 1, 0#6), some (.ofInt (-1), 0#6), none]
/-- What Table 4.6 gives for an input; NaN gives NaN, with NV if it is signalling (R102). -/
def specialCase (f : SFun) : XV → Option (XV × AFlags)
  | .nan sig => some (.nan false, flIf sig flNV)
  | .inf neg => (table46 f).getD (if neg then 3 else 2) none
  | .fin neg n _ => if n = 0 then (table46 f).getD (if neg then 1 else 0) none else if neg then (table46 f).getD 4 none else none
/-- The exact points of R102: FLG2 of 1, FEX2 of an integer, FSIN of an integer and FCOS of an integer and a half. -/
def exactPoint (f : SFun) : XV → Option XV
  | .fin neg n d =>
    match f with
    | .lg2 => if n = d then some (.zero false) else none
    | .ex2 => if n % d = 0 ∧ n ≤ 400 * d then some (.scaled false 1 1 (if neg then -((n / d : Nat) : Int) else (n / d : Nat))) else none
    | .sin => if n % d = 0 then some (.zero neg) else none
    | .cos => if 2 * n % (2 * d) = d then some (.zero false) else none
    | _ => none
  | _ => none
/-- Each is rounded once: from the value Table 4.6 gives, with its flags; else from the exact point; else from the function's value. -/
def special (ins : Instr) : Option LaneRule :=
  (specialFun ins).map fun y => fun i x l =>
    let a := decF y.2.1 (x 0)
    let v := match specialCase y.1 a, exactPoint y.1 a with | some c, _ => c | none, some e => (e, 0#6) | none, none => specialX y.1 a
    let r := roundFmt y.2.1 y.2.2 false (word i y.2.2 l) v.1
    ((r.1 : Int), r.2 ||| v.2)

/-- The nearer bound of a type with OF under .sat, else the value modulo 2 to the W read back (R23, R104 to R108). -/
def narrowed (t : ITy) (sat : Bool) (n : Int) : Int × AFlags :=
  if sat then (max t.minV (min t.maxV n), flIf (decide (n < t.minV) || decide (t.maxV < n)) flOF)
  else (t.dec (n % (2 ^ ITy.width t : Int)).toNat, 0#6)
/-- Conditions of Table 4.4 on integers. -/
def icond (c : ICond) (x y : Int) : Bool :=
  match c with
  | .eq => decide (x = y) | .ne => decide (x ≠ y) | .lt => decide (x < y) | .le => decide (x ≤ y)
  | .gt => decide (x > y) | .ge => decide (x ≥ y)

/-- Integer arithmetic, comparison and conversion (R95, R104 to R108). -/
def intArith : Instr → Option LaneRule
  | .iadd _ t sat => some fun _ x _ => narrowed t sat (t.dec (x 0) + t.dec (x 1))
  | .isub _ t sat => some fun _ x _ => narrowed t sat (t.dec (x 0) - t.dec (x 1))
  | .iadc _ wide co => some fun _ x _ =>
      let W := if wide then 64 else 32
      let s := x 0 % 2 ^ W + x 1 % 2 ^ W + x 2 % 2
      ((if co then (if 2 ^ W ≤ s then 1 else 0) else s % 2 ^ W : Nat), 0#6)
  | .imul _ t sat => some fun _ x _ => narrowed t sat (t.dec (x 0) * t.dec (x 1))
  | .imulh _ t => some fun _ x _ =>
      (t.dec ((t.dec (x 0) * t.dec (x 1) / 2 ^ ITy.width t) % (2 ^ ITy.width t : Int)).toNat, 0#6)
  | .imad _ t sat => some fun _ x _ => narrowed t sat (t.dec (x 0) * t.dec (x 1) + t.dec (x 2))
  | .imin _ t => some fun _ x _ => (min (t.dec (x 0)) (t.dec (x 1)), 0#6)
  | .imax _ t => some fun _ x _ => (max (t.dec (x 0)) (t.dec (x 1)), 0#6)
  | .iabs _ t sat => some fun _ x _ => narrowed t sat |t.dec (x 0)|
  | .icmp _ t c => some fun _ x _ => (((icond c (t.dec (x 0)) (t.dec (x 1))).toNat : Int), 0#6)
  | .icvt _ src dst sat => some fun _ x _ => narrowed dst sat (src.dec (x 0))
  | _ => none

/-- FTOI and ITOF (R29, R109). -/
def intFloat : Instr → Option LaneRule
  | .ftoi _ src dst r => some fun i x l => toInt dst r (word i r l) (decFmt src (x 0))
  | .itof _ src dst r sat => some fun i x l =>
      let y := encFmt dst r sat (word i r l) (XV.ofInt (src.dec (x 0))); ((y.1 : Int), y.2)
  | _ => none

/-- The bit operations on W-bit values, by bit of the result where the manual says it so (R110 to R113). -/
def bitOps : Instr → Option LaneRule
  | .and _ t => some fun _ x _ => (t.dec ((x 0 % 2 ^ ITy.width t) &&& (x 1 % 2 ^ ITy.width t)), 0#6)
  | .or _ t => some fun _ x _ => (t.dec ((x 0 % 2 ^ ITy.width t) ||| (x 1 % 2 ^ ITy.width t)), 0#6)
  | .xor _ t => some fun _ x _ => (t.dec ((x 0 % 2 ^ ITy.width t) ^^^ (x 1 % 2 ^ ITy.width t)), 0#6)
  | .andn _ t => some fun _ x _ =>
      let W := ITy.width t
      (t.dec ((x 0 % 2 ^ W) &&& (2 ^ W - 1 - x 1 % 2 ^ W)), 0#6)
  | .shl _ t => some fun _ x _ => let W := ITy.width t; (t.dec ((x 0 % 2 ^ W) * 2 ^ (x 1 % W) % 2 ^ W), 0#6)
  | .shr _ t => some fun _ x _ => let W := ITy.width t; (t.dec (x 0 % 2 ^ W / 2 ^ (x 1 % W)), 0#6)
  | .sar _ t => some fun _ x _ =>
      let W := ITy.width t
      (t.dec ((sext W (x 0) / 2 ^ (x 1 % W)) % (2 ^ W : Int)).toNat, 0#6)
  | .rotl _ t => some fun _ x _ =>
      let W := ITy.width t
      (t.dec ((x 0 % 2 ^ W) * 2 ^ (x 1 % W) % 2 ^ W + x 0 % 2 ^ W / 2 ^ (W - x 1 % W)), 0#6)
  | .popc _ t => some fun _ x _ =>
      ((((List.range (ITy.width t)).map (fun k => (x 0 % 2 ^ ITy.width t).testBit k)).count true : Nat) |> fun n : Nat => (t.dec n, 0#6))
  | .clz _ t => some fun _ x _ =>
      let n := x 0 % 2 ^ ITy.width t
      (t.dec (if n = 0 then ITy.width t else ITy.width t - 1 - Nat.log2 n), 0#6)
  | .brev _ t => some fun _ x _ => (t.dec (bitReverse (ITy.width t) (x 0 % 2 ^ ITy.width t)), 0#6)
  | .bfe _ t => some fun _ x _ =>
      let W := ITy.width t
      let off := x 1 % 2 ^ 8
      let wid := x 2 % 2 ^ 8
      (if W ≤ off ∨ wid = 0 then 0
       else if t.isSigned then sext (Nat.min wid (W - off)) (x 0 / 2 ^ off)
       else ((x 0 / 2 ^ off % 2 ^ Nat.min wid (W - off) : Nat) : Int), 0#6)
  | .bfi _ wide => some fun _ x _ =>
      let W := if wide then 64 else 32
      let b := x 1 % 2 ^ W
      let off := x 2 % 2 ^ 8
      let wid := x 2 / 2 ^ 8 % 2 ^ 8
      let n := Nat.min wid (W - off)
      ((if W ≤ off ∨ wid = 0 then b
        else b % 2 ^ off + (x 0 % 2 ^ W) % 2 ^ n * 2 ^ off + b / 2 ^ (off + n) * 2 ^ (off + n) : Nat), 0#6)
  | .prmb _ => some fun _ x _ =>
      let byte := fun k : Nat => (x 0 + 2 ^ 32 * x 1) / 2 ^ (8 * (k % 8)) % 256
      let out := fun n : Nat => let k := x 2 / 2 ^ (4 * n) % 16
        if k < 8 then byte k else if 128 ≤ byte k then 255 else 0
      ((out 0 + 2 ^ 8 * out 1 + 2 ^ 16 * out 2 + 2 ^ 24 * out 3 : Nat), 0#6)
  | _ => none

/-- Moves, immediates, predicate operations and random numbers (R114, R115, R120 to R123). -/
def moves : Instr → Option LaneRule
  | .mov _ _ => some fun _ x _ => ((x 0 : Int), 0#6)
  | .sel _ pc _ => some fun i x l => (((if (i.pre.pred pc.toNat).getLsbD l then x 0 else x 1 : Nat) : Int), 0#6)
  | .movi _ _ imm sx => some fun _ _ _ => (if sx then imm.toInt else (imm.toNat : Int), 0#6)
  | .movh _ _ imm => some fun _ _ _ => ((2 ^ 32 * imm.toNat : Nat), 0#6)
  | .plog _ _ pa pb tt => some fun i _ l =>
      let a := (i.pre.pred pa.toNat).getLsbD l
      let b := (i.pre.pred pb.toNat).getLsbD l
      (((tt.getLsbD (match a, b with | false, false => 0 | false, true => 1 | true, false => 2 | true, true => 3)).toNat : Int), 0#6)
  | .pmovTp _ _ _ => some fun _ x l => ((((x 0).testBit l).toNat : Int), 0#6)
  | .pmovFp _ _ pa => some fun i _ _ => (((i.pre.pred pa.toNat).toNat : Int), 0#6)
  | .pcnt p _ pa => some fun i _ _ =>
      ((((List.range 64).filter (fun l => (i.act p).getLsbD l && (i.pre.pred pa.toNat).getLsbD l)).length : Nat), 0#6)
  | .pffs p _ pa => some fun i _ _ =>
      ((((List.range 64).find? (fun l => (i.act p).getLsbD l && (i.pre.pred pa.toNat).getLsbD l)).getD 64 : Nat), 0#6)
  | .rand _ d => some fun i _ l =>
      (((draw i.pre.rngseed i.pre.rngidx l 0).toNat + (if d.isS then 2 ^ 32 * (draw i.pre.rngseed i.pre.rngidx 0 1).toNat else 0) : Nat), 0#6)
  | _ => none

/-- An operation of a table has, in every bundle of a living split, the values of its rule. -/
def VResult (rules : Instr → Option LaneRule) : Prop :=
  ∀ ins v f, rules ins = some f → ins.vinfo = some v → ∀ s i, Executing s i →
    ∃ t, exec ins s = .next t ∧ VDoes s t i v (predDest ins) (draws ins) (fun l => f i (fun k => s.vOperand i v k l) l)

/-! ### Cross-lane operations -/

/-- The element of another lane: an inactive one gives the stated value (R59). -/
def laneRd (s : State) (i : Issue) (v : VInfo) (inact k l : Nat) : Nat := if (i.act v.p).getLsbD l then s.vOperand i v k l else inact
/-- The scalar of SRCB. -/
def scalarB (s : State) (i : Issue) (o : Bin) : Nat :=
  match o.b.op with | .s k => (readS (s.core i.core) i.pre k.toNat).toNat | _ => 0
/-- SHUF, LBRD, ROWB, COLB and TRNS. -/
def laneMove : Instr → Bool
  | .shuf _ _ => true | .lbrd _ _ => true | .rowb _ _ => true | .colb _ _ => true | .trns _ _ => true | _ => false
/-- The source lane of a lane (R116, R117), in a shape of rows and cols. -/
def sourceLane (s : State) (i : Issue) (v : VInfo) (l : Nat) : Instr → Nat
  | .shuf _ _ => s.vOperand i v 1 l % 64
  | .lbrd o _ => scalarB s i o % 64
  | .rowb o _ => l / i.pre.cols * i.pre.cols + scalarB s i o % i.pre.cols
  | .colb o _ => scalarB s i o % i.pre.rows * i.pre.cols + l % i.pre.cols
  | .trns _ _ => l % i.pre.rows * i.pre.cols + l / i.pre.rows
  | _ => l
/-- The lists of R36 a lane belongs to. -/
def listOf (w : Wave) (k : RedKind) (l : Nat) : List Nat :=
  match k with
  | .row => (List.range w.cols).map (fun c => l / w.cols * w.cols + c)
  | .col => (List.range w.rows).map (fun r => r * w.cols + l % w.cols)
  | .all => List.range 64
/-- LRED by TreeReduce over the list, LSCN by the serial prefix (R35, R118, R119). -/
def reduced (s : State) (i : Issue) (v : VInfo) (l : Nat) : Instr → Int × AFlags
  | .lred _ t k op r =>
    let y := treeReduce (redComb t op r) (redIdent t op)
      ((listOf i.pre k l).map (fun j => (redBits t (laneRd s i v (redIdent t op) 0 j), 0#6)))
    (redVal t y.1, y.2)
  | .lscn _ t excl op r =>
    let row := (List.range (l % i.pre.cols + (if excl then 0 else 1))).map (fun c => l / i.pre.cols * i.pre.cols + c)
    let y := row.foldl (fun acc j => let z := redComb t op r acc.1 (redBits t (laneRd s i v (redIdent t op) 0 j)); (z.1, acc.2 ||| z.2))
      (redIdent t op, 0#6)
    (redVal t y.1, y.2)
  | _ => (0, 0#6)
/-- LRED and LSCN. -/
def laneReduction : Instr → Bool | .lred _ _ _ _ _ => true | .lscn _ _ _ _ _ => true | _ => false


/-- The flags of a quotient (R103): NV for a signalling NaN, 0/0 and inf/inf, DZ for a finite dividend other than zero by zero, else those of the one rounding. -/
def quotientFlags (s : State) (i : Issue) (v : VInfo) (t : FTy) (r : RMode) (l : Nat) : AFlags :=
  let x := decF t (s.vOperand i v 0 l)
  let y := decF t (s.vOperand i v 1 l)
  flIf (x.isSNan || y.isSNan) flNV |||
    (if x.isNan || y.isNan then 0#6
     else if (x.isZero && y.isZero) || (x.isInf && y.isInf) then flNV
     else if y.isZero then flIf (!x.isInf) flDZ
     else (roundFmt t r false (word i r l) (fdivX x y).1).2)

/-! ### The M slot and operations in flight -/

/-- The operation that took the lanes sent before a hold (R160), the operations without it, and its requests. -/
def gathered (c : Core) (i : Issue) : Option VarOp := i.gatherOp.bind (fun g => c.ops.find? (fun o => o.id == g))
def keptOps (c : Core) (i : Issue) : List VarOp :=
  match gathered c i with | some o => c.ops.filter (fun x => x.id != o.id) | none => c.ops
def sentBefore (c : Core) (i : Issue) : List Req := match gathered c i with | some o => o.reqs | none => []
/-- A request without its remaining count, which normal mode leaves open (R388). -/
def Req.shape (r : Req) : Req := { r with rem := 0 }

/-- An operation of the bundle: whose it is, its flag and its number. -/
def Belongs (s : State) (i : Issue) (o : VarOp) : Prop :=
  o.id = s.nextId ∧ o.wave = i.wave ∧ o.uid = i.pre.uid ∧ o.grid = i.pre.grid ∧ o.split = i.split ∧ o.pc = i.sp.pc ∧
  o.handler = i.pre.inTrap ∧ o.padded = s.isDet i.core
/-- A selected flag's count rises by one, no other count differs (R50). -/
def Raises (s t : State) (i : Issue) (flag : Option Nat) : Prop :=
  ∀ n, (t.waveAt i).count n = (s.waveAt i).count n + (if flag = some n then 1 else 0)
/-- What stands in a core beside its waves and operations in flight; in a wave beside its splits and flag counts; in a split
beside its window. -/
def coreRest (c : Core) : Core := { c with waves := [], ops := [] }
def waveRest (w : Wave) : Wave := { w with splits := [], flags := [] }
def splitRest (sp : Split) : Split := { sp with win := [] }
/-- The frame of an operation that only enters flight: no register, no predicate, no memory changes. -/
def SendFrame (s t : State) (i : Issue) : Prop :=
  OnlyCores s t ∧ OtherCores s t i.core ∧ OtherWaves s t i.core i.wave ∧ OtherSplits s t i ∧
  coreRest (t.core i.core) = coreRest (s.core i.core) ∧ waveRest (t.waveAt i) = waveRest (s.waveAt i) ∧
  splitRest (t.splitAt i) = splitRest (s.splitAt i)
/-- One operation enters flight (R50, R159): its count, its flag, its lanes; in the window older results of its destination die
in them (R53). -/
def Sends (s t : State) (i : Issue) (flag : Option Nat) (d : Dest) (mask : Lanes) (o : VarOp) : Prop :=
  (t.core i.core).ops = keptOps (s.core i.core) i ++ [o] ∧ Belongs s i o ∧ o.flag = flag ∧ Raises s t i flag ∧
  (t.splitAt i).win = ((s.splitAt i).kill d mask).win ∧ SendFrame s t i

/-- The loads and the stores of R164. -/
def loadOf : Instr → Option Mem | .ld o => some o | .ldX o => some o | .ldb o => some o | .ldt o => some o | _ => none
def storeOf : Instr → Option Mem | .st o => some o | .stX o => some o | .stb o => some o | .stt o => some o | _ => none
/-- The place in the scratchpad of a lane's access (Table 6.5, R152). -/
def spPlace (s : State) (i : Issue) (f : MForm) (l : Nat) : Nat :=
  rotE (f.addr (s.core i.core) i.pre i.sp l).toNat (f.rot (s.core i.core) i.pre)
/-- The byte a scratchpad store leaves at a place: that of its highest active lane that writes it (R164). -/
def storedByte (s : State) (i : Issue) (f : MForm) (e : Nat) : Option Byte :=
  (lanesOf (f.lanes i.pre i.sp)).reverse.findSome? (fun l =>
    ((List.range f.size).find? (fun k => rowAt (spPlace s i f l) k == e)).map (fun k => BitVec.ofNat 8 (s.mData i f l / 256 ^ k)))

/-- The atomics with their operation (R165, R166). -/
def atomicOf : Instr → Option (Atom × AtomOp)
  | .atomAdd o => some (o, .add) | .atomMin o => some (o, .min) | .atomMax o => some (o, .max) | .atomAnd o => some (o, .and)
  | .atomOr o => some (o, .or) | .atomXor o => some (o, .xor) | .atomXchg o => some (o, .xchg) | .atomIncw o => some (o, .incw)
  | .cas o => some (o, .cas) | _ => none
/-- Operand and comparand of an atomic in a lane (R165, R166). -/
def atomData (s : State) (i : Issue) (o : Atom) (op : AtomOp) (f : MForm) (l : Nat) : Nat × Nat :=
  if op = .cas then s.casData i o l else (s.mData i f l, 0)
/-- The new value of an atomic on W-bit values (R165, R166). -/
def atomValue (op : AtomOp) (ty : ATy) (old v c : Nat) : Nat :=
  let t := atyInt ty
  let W := if ty.wide then 64 else 32
  match op with
  | .add => if ty = .f32 then (roundOnce .f32 .rn false 0 [decF .f32 old, decF .f32 v] (addX false (decF .f32 old) (decF .f32 v))).1.toNat
      else (old + v) % 2 ^ W
  | .min => if ty = .f32 then (pick .f32 false old v).1.toNat else if t.dec v < t.dec old then v else old
  | .max => if ty = .f32 then (pick .f32 true old v).1.toNat else if t.dec old < t.dec v then v else old
  | .and => old &&& v | .or => old ||| v | .xor => old ^^^ v | .xchg => v
  | .incw => if old ≥ v then 0 else old + 1
  | .cas => if old = c then v else old
/-- Acquire order. -/
def acquires (o : Atom) : Bool := o.ord == .acq || o.ord == .ar
/-- A scratchpad access of a core beside its bytes: what stands when its bytes and its operations are left out. -/
def coreButScratch (c : Core) : Core := { c with waves := [], ops := [], scratch := [], rows := [] }

/-- The plain operations of the M slot that hold a flag and a count: their flag select, their kind, and the tag they clear. -/
def plainOp (s : State) (i : Issue) : Instr → Option (FSel × VKind)
  | .fence p scope k f => some (f, if i.act p ≠ 0#64 then .fence scope k else if s.isDet i.core then .idleFence k else .empty)
  | .flush p base ofs staging f =>
    let r := s.rangeOf i base ofs
    some (f, if i.act p = 0#64 then .empty else .flush staging
      (if staging then s.stageSecs i.core r.1 r.2 else s.rangeSecs i.core r.1 r.2 false))
  | .bpref p tag base ofs f =>
    let r := s.rangeOf i base ofs
    some (f, .bpref tag.toNat (if i.act p = 0#64 then [] else s.rangeSecs i.core r.1 r.2 true))
  | .pref _ _ _ _ f => some (f, .pref)
  | _ => none
/-- What of a plain operation fails as it issues: the first page of a FLUSH.g whose table entry cannot be read (R161, R295). -/
def failsAtIssue (s : State) (i : Issue) : Instr → List Req
  | .flush p base ofs false _ => if i.act p = 0#64 then [] else s.rangeErr i.core (s.rangeOf i base ofs).1 (s.rangeOf i base ofs).2
  | _ => []
/-- Tags a produced-tag operation clears at its issue (R173, R233). -/
def clearedTag : Instr → W64 | .bpref _ tag _ _ _ => laneBit tag.toNat | _ => 0#64

/-- The scalar a base names. -/
def baseScalar (s : State) (i : Issue) (f : MForm) : Nat :=
  match f.base with | .s n => (readS (s.core i.core) i.pre n.toNat).toNat | _ => 0
/-- The address of a lane (R151, Table 6.5): of an affine scalar its BASE and STRIDE, else the scalar, the register or the pair, plus the
offset and the lane's step. -/
def laneAddress (s : State) (i : Issue) (f : MForm) (l : Nat) : Int :=
  let x := baseScalar s i f
  let v := fun wide => (readOp (s.core i.core) i.pre i.sp f.base wide l 0).toNat
  let step := x / 2 ^ 32 % 2 ^ 16
  match f.mode with
  | .affine => (x % 2 ^ 32 : Nat) + f.ofs + (if f.single then 0 else (l * step : Nat))
  | .tile => (x % 2 ^ 32 : Nat) + f.ofs + (l / i.pre.cols * step + l % i.pre.cols * f.size : Nat)
  | .lane32 => (v false % 2 ^ 32 : Nat) + f.ofs
  | .seq => ((x : Int) + f.ofs + (if f.single then 0 else (l * f.size : Nat))) % 2 ^ 64
  | .pair => ((v true : Int) + f.ofs) % 2 ^ 64
/-- SPRANGE (R151, R154): bits 63 to 52 of an affine scalar are not zero, or the access leaves the S · 1,024 bytes of the scratchpad. -/
def OutOfScratchpad (s : State) (i : Issue) (f : MForm) (l : Nat) : Prop :=
  f.space = .s ∧ (((f.mode = .affine ∨ f.mode = .tile) ∧ baseScalar s i f / 2 ^ 52 % 2 ^ 12 ≠ 0) ∨
    laneAddress s i f l < 0 ∨ ((s.core i.core).size * 1024 : Int) < laneAddress s i f l + f.size)
/-- WINRANGE (R154, R282): the access leaves the partition's cistern window, or a staging address has bits above 27, names a slice that is
not the partition's, or an offset beyond the slice's staging size. -/
def OutOfWindow (s : State) (i : Issue) (p : Part) (f : MForm) (l : Nat) : Prop :=
  let a := laneAddress s i f l
  (f.space = .h ∧ (p.cisLen : Int) < a + f.size) ∨
  (f.space = .l ∧ ¬ (a.toNat < 2 ^ 28 ∧ ∃ r, NMap.get? s.mem.sstg (a.toNat / 2 ^ 21) = some r ∧ bitsNat r.toNat 8 4 = p.num ∧
    a.toNat % 2 ^ 21 + f.size ≤ stageBytes r))
/-- MISALIGN (R158, R164): the address is no multiple of the size, or the pitch of LDT and STT is not. -/
def OffItsSize (s : State) (i : Issue) (f : MForm) (l : Nat) : Prop :=
  (f.mode = .tile ∧ baseScalar s i f / 2 ^ 32 % 2 ^ 16 % f.size ≠ 0) ∨ laneAddress s i f l % (f.size : Int) ≠ 0
/-- The first of an access's lanes of which a condition holds. -/
def FirstOf (m : Lanes) (bad : Nat → Prop) (l : Nat) : Prop := l < 64 ∧ m.getLsbD l = true ∧ bad l ∧ ∀ j, j < l → m.getLsbD j = true → ¬ bad j
/-- No lane of an access is such. -/
def NoneOf (m : Lanes) (bad : Nat → Prop) : Prop := ∀ j, j < 64 → m.getLsbD j = true → ¬ bad j
/-- The cause an access traps with and the lane whose address the record holds, in the order of R187: SPRANGE, WINRANGE, MISALIGN. -/
def AccessFault (s : State) (i : Issue) (p : Part) (f : MForm) : Cause → Nat → Prop
  | .sprange, l => FirstOf (f.lanes i.pre i.sp) (OutOfScratchpad s i f) l
  | .winrange, l => NoneOf (f.lanes i.pre i.sp) (OutOfScratchpad s i f) ∧ FirstOf (f.lanes i.pre i.sp) (OutOfWindow s i p f) l
  | .misalign, l => NoneOf (f.lanes i.pre i.sp) (OutOfScratchpad s i f) ∧ NoneOf (f.lanes i.pre i.sp) (OutOfWindow s i p f) ∧
      FirstOf (f.lanes i.pre i.sp) (OffItsSize s i f) l
  | _, _ => False
/-- What a variable-latency access of the M slot enters flight as, and a lane's data. -/
def accessKind (s : State) (i : Issue) (ins : Instr) (f : MForm) : Option VKind :=
  match loadOf ins, storeOf ins, atomicOf ins with
  | some o, _, _ => some (.load (s.destOf i f.data (f.size == 8)).1 o.size.bytes (o.space == .c) (if o.space = .h then .cg else o.cop))
  | _, some o, _ => some (.store o.size.bytes o.cop)
  | _, _, some (o, a) => some (.atom (s.destOf i f.data o.ty.wide).1 a o.ty o.ord)
  | _, _, _ => none
def accessData (s : State) (i : Issue) (ins : Instr) (f : MForm) (l : Nat) : Nat × Nat :=
  match storeOf ins, atomicOf ins with
  | some _, _ => (s.mData i f l, 0)
  | _, some (o, a) => atomData s i o a f l
  | _, _ => (0, 0)

/-! ### Traps -/

/-- The trap record of Table 7.4 as a trap sets it. -/
def recordIs (c : TrapCtx) (t : TrapInfo) (split : Nat) : Prop :=
  c.cause = t.cause ∧ c.arg = t.arg ∧ c.slot = t.slot ∧ c.split = split ∧ c.deferred = t.deferred ∧ c.pc = t.pc ∧ c.fpc = t.fpc ∧
  c.addr = t.addr ∧ c.info = t.info ∧ c.lanes = t.lanes ∧ c.resume = 0#64 ∧ c.started = false ∧ c.retired = t.retired
/-- A wave outside trap mode that traps (R188): its splits stop, its record is set, its registers, predicates and flags stand;
no other wave of the core loses its registers. -/
def TakesTrap (s t : State) (core w split : Nat) (x : TrapInfo) : Prop :=
  ∃ c, (t.wave core w).trap = some c ∧ recordIs c x split ∧ c.time = s.timeNs ∧ c.ctx = s.ctxAddr core w ∧
    c.rngidx = (s.wave core w).rngidx ∧ (t.wave core w).splits = [] ∧ (t.wave core w).drain = [] ∧
    c.splits.map (fun e => (e.1, e.2.pc)) = (s.wave core w).splits.map (fun e => (e.1, e.2.pc)) ∧
    c.splits.map (fun e => (e.1, e.2.mask)) = (s.wave core w).splits.map (fun e => (e.1, e.2.mask)) ∧
    (t.wave core w).v = (s.wave core w).v ∧ (t.wave core w).s = (s.wave core w).s ∧ (t.wave core w).p = (s.wave core w).p ∧
    (t.wave core w).aflg = (s.wave core w).aflg ∧ (t.wave core w).flags = (s.wave core w).flags ∧
    (t.wave core w).retc = (s.wave core w).retc ∧
    t.parts = s.parts ∧ t.grids = s.grids ∧ t.pack = s.pack ∧ t.now = s.now ∧
    (∀ d y, (t.wave d y).v = (s.wave d y).v ∧ (t.wave d y).s = (s.wave d y).s ∧ (t.wave d y).p = (s.wave d y).p)

/-! ### The X slot -/

/-- The X-slot operations with their operands. -/
def xOf : Instr → Option XOp
  | .cpy o => some o | .cpyq o => some o | .cpyo o => some o | .cpyr o => some o | .coll o => some o
  | .mxq o => some o | .mxrd o _ => some o | .mxwr o _ => some o | .mxz o => some o | .mxcrd o => some o | .mxcwr o => some o
  | _ => none
/-- Copies and collectives: the kind and the number of descriptor scalars (R239, R383). -/
def copyOf : Instr → Option (CopyKind × Nat)
  | .cpy _ => some (.cpy, 12) | .cpyq _ => some (.cpyq, 12) | .cpyo _ => some (.cpyo, 12) | .cpyr _ => some (.cpyr, 12)
  | .coll _ => some (.coll, 5) | _ => none
/-- Side-port operations: the kind and the number of half-rows (R227). -/
def sideOf : Instr → Option (SideKind × Nat)
  | .mxrd _ n => some (.rd, n.toNat + 1) | .mxwr _ n => some (.wr, n.toNat + 1) | .mxz _ => some (.z, 0)
  | .mxcrd _ => some (.crd, 0) | .mxcwr _ => some (.cwr, 0) | _ => none
/-- The trap an X-slot operation raises at issue. -/
def xTrap (s : State) (i : Issue) : Instr → Option TrapInfo
  | .cpy o => s.copyBad i .cpy o | .cpyq o => s.copyBad i .cpyq o | .cpyo o => s.copyBad i .cpyo o | .cpyr o => s.copyBad i .cpyr o
  | .coll o => s.collBad i o | .mxq o => s.mxqBad i o
  | .mxrd o n => s.sideBad i o .rd (n.toNat + 1) | .mxwr o n => s.sideBad i o .wr (n.toNat + 1)
  | .mxz o => s.sideBad i o .z 0 | .mxcrd o => s.sideBad i o .crd 0 | .mxcwr o => s.sideBad i o .cwr 0
  | _ => none
/-- What an operation waits for: the tags it consumes that read clear as its bundle issued (R234). -/
def WaitsFor (i : Issue) (ct : CTags) (l : List Nat) : Prop := ∀ k, k ∈ l ↔ k ∈ CTags.list ct ∧ i.tags.getLsbD k = false
/-- The frame of an operation that enters an engine: its produced tag and the tag's error bit clear (R233); no memory, no register,
no other core and no other cluster changes. -/
def XFrame (s t : State) (i : Issue) (o : XOp) : Prop :=
  t.mem = s.mem ∧ t.parts = s.parts ∧ t.grids = s.grids ∧ t.pack = s.pack ∧ t.now = s.now ∧ t.inputs = s.inputs ∧ t.issue = s.issue ∧
  OtherCores s t i.core ∧ OtherWaves s t i.core i.wave ∧ (∀ c, c ≠ clusterOf i.core → t.cluster c = s.cluster c) ∧
  (t.core i.core).tags = (s.core i.core).tags &&& ~~~ (laneBit o.ptag.toNat) ∧
  (t.core i.core).tagerr = (s.core i.core).tagerr &&& ~~~ (laneBit o.ptag.toNat) ∧
  { t.core i.core with tags := 0#64, tagerr := 0#64, waves := [] } = { s.core i.core with tags := 0#64, tagerr := 0#64, waves := [] } ∧
  { t.waveAt i with splits := [] } = { s.waveAt i with splits := [] }

/-! ### The C slot -/

/-- Nothing stands otherwise but in the issuing split. -/
def SplitOnly (s t : State) (i : Issue) : Prop :=
  OnlyCores s t ∧ OtherCores s t i.core ∧ OtherWaves s t i.core i.wave ∧ OtherSplits s t i ∧
  { t.core i.core with waves := [] } = { s.core i.core with waves := [] } ∧ { t.waveAt i with splits := [] } = { s.waveAt i with splits := [] }
/-- The split goes to a bundle; nothing else of it differs, but that it leaves an expansion. -/
def GoesTo (s t : State) (i : Issue) (pc : Int) : Prop :=
  (t.splitAt i).pc = (pc % 2 ^ 64).toNat ∧ { t.splitAt i with pc := 0, mpc := none } = { s.splitAt i with pc := 0, mpc := none }
/-- The wave as its split leaves an expansion it stands in: the MACRO counts as one op, and an index it drew is consumed (R40, R140, R146). -/
def leaving (s : State) (i : Issue) : Wave :=
  match (s.splitAt i).mpc with
  | some m => { s.waveAt i with retc := (s.waveAt i).retc + 1, rngidx := if 2 ^ 16 ≤ m then (s.waveAt i).rngidx + 1 else (s.waveAt i).rngidx }
  | none => s.waveAt i
/-- A branch is taken: the split goes to a bundle, out of an expansion, and nothing else differs. -/
def Jumps (s t : State) (i : Issue) (pc : Int) : Prop :=
  OnlyCores s t ∧ OtherCores s t i.core ∧ OtherWaves s t i.core i.wave ∧ OtherSplits s t i ∧
  { t.core i.core with waves := [] } = { s.core i.core with waves := [] } ∧ { t.waveAt i with splits := [] } = { leaving s i with splits := [] } ∧
  GoesTo s t i pc ∧ (t.splitAt i).mpc = none
/-- What a drained window still holds: the results on their way, which land in their latch and in the bank (R51, R54). -/
def onTheirWay (win : List FRes) : List FRes := (win.filter (fun r => !r.arrived)).map (fun r : FRes => { r with out := true })
/-- The scalar a code names, as it stands in a state. -/
def scalarAt (t : State) (i : Issue) (n : Nat) : W64 := rdS (t.core i.core) (t.waveAt i) (i.pre.skey n)
/-- No operation issued later has written the scalar in this issue cycle (R53). -/
def Unwritten (s : State) (i : Issue) (n : Nat) : Prop := (s.waveAt i).later (1000 + i.pre.skey n) s.nextId = 0#64
/-- A C-slot operation leaves x in scalar n at the end of its issue cycle, and no other scalar differs (R125). -/
def SetsScalar (s t : State) (i : Issue) (n : Nat) (x : W64) : Prop :=
  (Unwritten s i n → scalarAt t i n = x) ∧ (∀ k, k ≠ i.pre.skey n → rdS (t.core i.core) (t.waveAt i) k = rdS (s.core i.core) (s.waveAt i) k) ∧
  (∀ r ∈ (t.splitAt i).win, r.dest = .s (i.pre.skey n) → r.scalar = true → r.near (s.splitAt i).isn = true → r.live = 0#64)
/-- What an operation leaves that writes a scalar: everything but the split, the scalars and the marks of this cycle's writes. -/
def ScalarFrame (s t : State) (i : Issue) : Prop :=
  OnlyCores s t ∧ OtherCores s t i.core ∧ OtherWaves s t i.core i.wave ∧ OtherSplits s t i ∧
  { t.core i.core with waves := [], shS := [] } = { s.core i.core with waves := [], shS := [] }
def waveScalarless (w : Wave) : Wave := { w with splits := [], s := [], icw := [] }

/-- The condition of a BRC over the active lanes (Table 5.2). -/
def CondHolds (s : State) (i : Issue) (m : Lanes) : BrCond → Prop
  | .nz n => readS (s.core i.core) i.pre n.toNat ≠ 0#64
  | .z n => readS (s.core i.core) i.pre n.toNat = 0#64
  | .neg n => (readS (s.core i.core) i.pre n.toNat).toInt < 0
  | .nneg n => 0 ≤ (readS (s.core i.core) i.pre n.toNat).toInt
  | .any p => ∃ l, l < 64 ∧ m.getLsbD l = true ∧ (i.pre.pred p.toNat).getLsbD l = true
  | .all p => ∀ l, l < 64 → m.getLsbD l = true → (i.pre.pred p.toNat).getLsbD l = true
  | .none p => ∀ l, l < 64 → m.getLsbD l = true → (i.pre.pred p.toNat).getLsbD l = false
/-- Branches: predicate, condition beside an active lane, and target (R128). -/
def branchOf (s : State) (i : Issue) : Instr → Option (Pred × Prop × Int)
  | .br p ofs => some (p, True, (i.sp.pc : Int) + ofs.toInt)
  | .brc p c ofs => some (p, CondHolds s i (i.act p) c, (i.sp.pc : Int) + ofs.toInt)
  | .jmpi p n => some (p, True, (readS (s.core i.core) i.pre n.toNat).toNat)
  | .ret p n => some (p, True, (readS (s.core i.core) i.pre n.toNat).toNat)
  | _ => none
/-- Taken lanes of BRV (R129). -/
def takenLanes (i : Issue) (p : Pred) (neg : Bool) (pc : BitVec 3) : Lanes :=
  laneMask (fun l => (i.act p).getLsbD l && ((i.pre.pred pc.toNat).getLsbD l != neg))
/-- The counter LOOP leaves, and the stage bit where it is taken (R130). -/
def loopCount (c : Nat) (sw : Bool) : Nat × Option Bool :=
  if 0 < c % 2 ^ 32 then (c - 1, some true)
  else if sw = true ∧ 0 < c / 2 ^ 32 % 8 then (c - 2 ^ 32, some false)
  else (c, none)
/-- Bounds, order and slice of a NEST: its scalars', or the launch's (R132, R258). -/
def nestOf (s : State) (i : Issue) (n : BitVec 6) (d1 : BitVec 3) : List Nat × List Nat × Nat × Nat :=
  if (readS (s.core i.core) i.pre n.toNat).getLsbD 63 = true then
    match s.grid? i.pre.grid with
    | some g => (match g.nest with | some x => (x.1, x.2, g.slice i.core i.pre.widx) | none => ([], [], 0, 0))
    | none => ([], [], 0, 0)
  else
    let dims := (List.range (d1.toNat + 1)).map (fun k => (readS (s.core i.core) i.pre (n.toNat + k)).toNat % 2 ^ 32)
    (dims, List.range (d1.toNat + 1), 0, prod dims)
/-- C-slot operations that change no architectural state as they act (R65, R131, R133). -/
def idleOp : Instr → Bool | .nop => true | .lmark _ => true | .wflg _ => true | _ => false
/-- Waits on tags with their mask and destination (R134). -/
def tagWait : Instr → Option (BitVec 6 × Bool × Option (BitVec 6))
  | .twany n => some (n, true, none) | .twall n => some (n, false, none) | .tffr d n => some (n, true, some d) | _ => none
/-- Barriers (R136). -/
def barrierOf : Instr → Option BarKey
  | .bar id => some (.bar id.toNat) | .gbar id => some (.gbar id.toNat) | .sbar n => some (.sbar n.toNat) | _ => none
/-- The traps of the C slot, by R61, R48, R132, R134, R136, R139, R143 to R145, R259, R317. -/
def ctlTrap (s : State) (i : Issue) : Instr → Option Cause
  | .brv p neg pc _ _ =>
    let t := takenLanes i p neg pc
    if t ≠ 0#64 ∧ i.sp.mask &&& ~~~ t ≠ 0#64 ∧ 4 ≤ i.pre.splits.length ∧ 8 ≤ i.sp.stack.length then some .splitovf else none
  | .nest n _ d1 _ =>
    if (readS (s.core i.core) i.pre n.toNat).getLsbD 63 = true then
      match (s.grid? i.pre.grid).bind (·.nest) with
      | none => some .illop
      | some x => if x.1.length ≠ d1.toNat + 1 then some .illop else if (s.cluster (clusterOf i.core)).seqBad then some .memerr else none
    else none
  | .twany n => if readS (s.core i.core) i.pre n.toNat = 0#64 then some .illop else none
  | .tffr _ n => if readS (s.core i.core) i.pre n.toNat = 0#64 then some .illop else none
  | .sbar n => match s.grid? i.pre.grid with
    | some g => (match NMap.get? g.sets n.toNat with | some l => if l.contains i.pre.lcore then none else some .illop | none => some .illop)
    | none => some .illop
  | .gets p _ num =>
    if i.act p = 0#64 then none
    else if 0x40 ≤ num.toNat ∧ num.toNat ≤ 0x5F then (if i.pre.inTrap then none else some .priv)
    else if 0x100 ≤ num.toNat ∧ i.pre.priv = false ∧ isCmdCore i.core = false then some .priv else none
  | .sets p num n =>
    if i.act p = 0#64 then none
    else if 0x40 ≤ num.toNat ∧ num.toNat ≤ 0x5F then
      (if i.pre.inTrap = false then some .priv else if num.toNat ≠ 0x4A then some .illop else none)
    else if 0x100 ≤ num.toNat ∧ i.pre.priv = false ∧ isCmdCore i.core = false then some .priv
    else if num.toNat = 1 ∧ (readS (s.core i.core) i.pre n.toNat).toNat % 8 = 7 then some .illop else none
  | .launch _ => if isCmdCore i.core ∨ i.pre.priv = true then none else some .priv
  | .node _ => if isCmdCore i.core then none else some .priv
  | .bkpt p => if i.act p = 0#64 then none else some .bkpt
  | .eretReplay => if i.pre.inTrap then none else some .illop
  | .eretResumeAtRpc => if i.pre.inTrap then none else some .illop
  | .eretEndWave => if i.pre.inTrap then none else some .illop
  | _ => none
/-- What of a frozen split a context slot does not hold: all but its latches and the liveness of its results (R190, Table 7.5). -/
def frozenRest (sp : Split) : Split := { sp with latV := [], latM := [], win := sp.win.map (fun r : FRes => { r with live := 0#64 }) }
/-- The actions of TRESUME (R191, Table 7.4). -/
def actionOf : Instr → Option Nat | .eretReplay => some 0 | .eretResumeAtRpc => some 1 | .eretEndWave => some 2 | _ => none
/-- A DET core that a save holds has no wave in trap mode once this one has returned (R185, R194). -/
def heldAfterTrap (s : State) (i : Issue) : Bool :=
  s.isDet i.core && (s.core i.core).hold && ((s.updWave i.core i.wave (fun w => { w with trap := none })).core i.core).waves.all (fun e => e.2.trap.isNone)
/-- No GBAR or SBAR of a DET grid has been arrived at: none counts its opening from an EXIT (R256). -/
def noFarCount (s : State) (i : Issue) : Prop :=
  ∀ g b, s.grid? (s.waveAt i).grid = some g → b ∈ g.bars → g.det = false ∨ b.id.key.far = false
/-- The waves of the core's cluster that wait at a phase of a far barrier count its opening from now, 2,000 ic at x1 (R256, Table 7.2). -/
def countsFromNow (s t : State) (i : Issue) (g : Grid) (b : BarSt) : Prop :=
  ∀ c w wv k sp x, c / 8 = i.core / 8 → t.wave? c w = some wv → wv.grid = g.id → barId b.id.key wv = b.id →
    NMap.get? wv.own k = some sp → sp.bar = some x → x.key = b.id.key → x.opened = false → x.rel = some ((s.ratio i.core).scale 2000)
/-- A partition's register file at a state. -/
def partAt (s : State) (part : Nat) (p : Part) : Prop := NMap.get? s.parts part = some p
/-- A held write (RWD) of a partition whose grids run or stand in a saved context, else the write itself (R8). -/
def heldOr (s : State) (part n : Nat) (v : W64) (p now : Part) : Part := if s.launched part then { p with held := NMap.put p.held n v } else now
/-- What a write of a command register leaves of its partition (Table 15.1, Table 0.5). A write of INTRAISE sends the interrupts that were not pending, one of INVLEN
starts the invalidation, one of IMGLOAD the loader; a read-only number ignores it. -/
def CmdWritten (s t : State) (part n : Nat) (v : W64) : Prop :=
  ∀ p, partAt s part p → ∃ q, partAt t part q ∧ (∀ k, k ≠ part → NMap.get? t.parts k = NMap.get? s.parts k) ∧ t.cores = s.cores ∧ t.clusters = s.clusters ∧ t.grids = s.grids ∧
    (n ≠ 0x10D → t.mem = s.mem) ∧ (n ≠ 0x108 → t.pack = s.pack) ∧ (n ≠ 0x10A → t.inputs = s.inputs) ∧
    match n with
    | 0x102 => q = { p with lstat := p.lstat &&& ~~~ (v &&& 0x30000#64) }
    | 0x103 => q = { p with trapvec := v &&& 0x0000FFFFFFFFFFFF#64 }
    | 0x104 => q = { p with ctxbase := v &&& 0xFFFFFFFFFFFFF000#64 }
    | 0x105 => q = heldOr s part n v p { p with slice := v }
    | 0x106 => q = heldOr s part n v p { p with epoch := v }
    | 0x107 => q = { p with overrun := v &&& 0xFFFFFFFF#64 }
    | 0x108 => q = { p with intPend := p.intPend ||| v } ∧
        t.pack.out = s.pack.out ++ (if s.pack.hinge then (lanesOf (v &&& ~~~ p.intPend)).map (fun k => OutMsg.interrupt part k) else [])
    | 0x109 => q = { p with inva := v &&& 0x0000FFFFFFFF0000#64 }
    | 0x10A => q = { p with invlen := v &&& 0xFFFFFFFF#64, invBusy := true } ∧ ∃ w, s.now ≤ w ∧ (w, Instr.invalidationCompletion part) ∈ t.inputs
    | 0x10B => q = if 1024 ≤ bitsNat v.toNat 0 17 ∧ bitsNat v.toNat 0 17 ≤ 65536 then { p with quant := BitVec.ofNat 64 (bitsNat v.toNat 0 17) } else p
    | 0x10D => q = { p with imgload := v &&& 0x7FFFFFFFFFFFFFFF#64, imgstat := q.imgstat, codes := q.codes, transl := q.transl }
    | 0x10E => q = { p with imgdst := v &&& 0xFFFFFFFFFFFF0000#64 }
    | 0x110 => q = heldOr s part n v p { p with ptroot := v &&& 0x000FFFFFFFFFF001#64 }
    | 0x111 => q = heldOr s part n v p { p with tcache := v &&& 0xFFFFFFFFFFFF0000#64, transl := [] }
    | _ => q = p
/-- A system register of the wave as SETS leaves it (Table 5.3, R140); a command register as Table 15.1 has it. -/
def SysHolds (s t : State) (i : Issue) (n : Nat) (v : W64) : Prop :=
  match n with
  | 0x000 => (t.waveAt i).aflg = (s.waveAt i).aflg &&& ~~~ (v.truncate 6)
  | 0x001 => (t.waveAt i).rowlog = v.truncate 3
  | 0x002 => (t.waveAt i).rbase = v.truncate 5
  | 0x003 => (t.waveAt i).rngidx = v.truncate 48
  | 0x004 => (t.waveAt i).rngseed = v
  | 0x013 => (t.waveAt i).stalled = v.truncate 32
  | 0x04A => ∀ c, (s.waveAt i).trap = some c → ∃ d, (t.waveAt i).trap = some d ∧ ∀ k, k < 50 → d.resume.getLsbD k = v.getLsbD k
  | _ => 0x100 ≤ n → ∀ p, s.partOf i.core = some p → CmdWritten s t p.num n v

/-- The codes of Table 7.3. -/
def causeCode : Cause → Nat
  | .illop => 0x01 | .schedf => 0x02 | .splitovf => 0x03 | .pcrange => 0x04 | .priv => 0x05 | .misalign => 0x06 | .sprange => 0x07
  | .winrange => 0x08 | .xlate => 0x09 | .memerr => 0x0A | .setflt => 0x0B | .trapn => 0x10 | .bkpt => 0x11 | .dbltrap => 0x1F
/-- Table 7.4: the registers of the trap record of a wave that holds native code or Beyrum code; a PC that does not apply reads all ones. -/
def recordWord (c : TrapCtx) (bey : Bool) (n : Nat) : W64 :=
  let carried := bey && c.nat.isNone
  let pc48 := fun (absent : Bool) (pc : Nat) => BitVec.ofNat 64 (if absent then 2 ^ 48 - 1 else pc % 2 ^ 48)
  match n with
  | 0x40 => BitVec.ofNat 64 (causeCode c.cause + 2 ^ 8 * (c.arg % 256) + 2 ^ 16 * c.slot + 2 ^ 19 * c.split + (if c.deferred then 2 ^ 21 else 0) +
      (if carried then 2 ^ 22 else 0) + (if c.inMacro then 2 ^ 23 else 0))
  | 0x41 => pc48 carried (match c.nat with | some r => r.at' / 32 + (c.pc - r.bpc) | none => c.pc)
  | 0x42 => pc48 (!bey) c.pc
  | 0x43 => BitVec.ofNat 64 (match c.mpc with | some m => 2 ^ 63 + m % 2 ^ 16 | none => 0)
  | 0x44 => match c.fnat with | some a => pc48 false a | none => pc48 (bey || c.nat.isSome) c.fpc
  | 0x45 => BitVec.ofNat 64 c.addr
  | 0x46 => BitVec.ofNat 64 c.info
  | 0x47 => c.lanes
  | 0x48 => BitVec.ofNat 64 c.ctx
  | 0x49 => BitVec.ofNat 64 c.time
  | 0x4A => c.resume
  | 0x4B => pc48 (!bey) c.fpc
  | _ => 0#64
/-- Table 15.1: what the command registers read, by number; INTRAISE reads zero, and [63] of INVLEN and IMGLOAD says what runs. -/
def commandWords (s : State) (p : Part) : List (Nat × W64) :=
  [(0x100, BitVec.ofNat 64 p.num), (0x101, BitVec.ofNat 64 (p.run.getD 0 + 2 ^ 4 * (p.ctxs.length - 1))), (0x102, p.lstat), (0x103, p.trapvec),
   (0x104, p.ctxbase), (0x105, p.slice), (0x106, p.epoch), (0x107, p.overrun), (0x108, 0#64), (0x109, p.inva),
   (0x10A, p.invlen ||| (if p.invBusy then 1#64 <<< 63 else 0#64)), (0x10B, p.quant), (0x10C, s.pack.csver),
   (0x10D, p.imgload ||| (if p.imgBusy then 1#64 <<< 63 else 0#64)), (0x10E, p.imgdst), (0x10F, p.imgstat), (0x110, p.ptroot), (0x111, p.tcache)]
/-- WSTAT (Table 5.3): DET, CLKRATIO, trap mode, carried execution, privilege and the arrays of the cluster. Bit 4 in the native handler of a carried wave
says how the trapped wave ran (assumption 73). -/
def wstatWord (s : State) (i : Issue) : W64 :=
  let carried := i.pre.carried && (match i.pre.trap with | some c => c.nat | none => s.nativeAt i.core i.pre i.sp).isNone
  let bit := fun (b : Bool) (k : Nat) => if b then 2 ^ k else 0
  BitVec.ofNat 64 (bit (s.isDet i.core) 0 + (match s.ratio i.core with | .half => 0 | .x1 => 2 | .x2 => 4) + bit i.pre.inTrap 3 + bit carried 4 +
    bit i.pre.priv 5 + 2 ^ 6 * (s.cluster (clusterOf i.core)).arrays.length)

/-! ### Launch records -/

/-- A core can hold so many blocks of a grid (R320). -/
def blocksAtOnce (r : List W64) : Nat :=
  let waves := recBits r 0 48 8
  if 16 ≤ recBits r 0 22 10 ∨ r.getD 9 0#64 ≠ 0#64 then 1
  else Nat.min (32 / waves) (Nat.min (2048 / recBits r 0 40 8 / waves) (2048 / recBits r 0 32 8 / waves))
/-- A range a field may have: from a to b in steps of 8. -/
def inSteps (a b n : Nat) : Prop := a ≤ n ∧ n ≤ b ∧ n % 8 = 0
/-- Byte, bounds and order of a nest descriptor (Table 15.9) and what R314 refuses. -/
def nestBound (b : List Byte) (k : Nat) : Nat := imgNat b (8 + 4 * k) 4
def NestRefused (b : List Byte) : Prop :=
  let d := imgNat b 0 1 + 1
  6 < d ∨ imgNat b 7 1 ≠ 0 ∨ imgNat b 0x20 32 ≠ 0 ∨ (∃ k, k < 6 ∧ d ≤ k ∧ (imgNat b (1 + k) 1 ≠ 0 ∨ nestBound b k ≠ 0)) ∨
  (∃ k, k < d ∧ nestBound b k = 0) ∨ (∃ k, k < d ∧ ∀ j, j < d → imgNat b (1 + j) 1 ≠ k)
/-- The table a word of the record names: none where the word is 0, `some none` where it cannot be read (R315). -/
def namedTable (s : State) (p : Part) (r : List W64) (word len : Nat) : Option (Option (List Byte)) :=
  if r.getD word 0#64 = 0#64 then none else some (s.tableBytes p (r.getD word 0#64).toNat len)
/-- The placement list, where the record names one that can be read. -/
def placeList (s : State) (p : Part) (r : List W64) (l : List Nat) : Prop :=
  ∃ b, namedTable s p r 10 (4 * recBits r 1 0 32) = some (some b) ∧ l = (List.range (recBits r 1 0 32)).map (fun k => imgNat b (4 * k) 4)
/-- Some core stands more than n times in a list. -/
def Crowds (n : Nat) (l : List Nat) : Prop := ∃ c, n < l.count c
/-- The rows of Table 15.4 that LAUNCH can refuse a record by. That a fallback above the preferred size is refused although it is not used (assumption 49), what
counts as reserved (assumption 50) and that the list gives the cores under DET (assumption 51) are the model's readings. -/
def launchRow (s : State) (p : Part) (cmd : Bool) (r : List W64) : Nat → Prop :=
  let fld := recBits r
  let word := fun (k : Nat) => (r.getD k 0#64).toNat
  let det := fld 0 16 1 = 1
  let full := fun (cluster : Nat) => ¬ (det ∨ fld 0 19 1 = 1) ∨ (s.cluster cluster).arrays.length = 4
  let cores := 8 * (p.clusters.filter (fun c => decide (full c))).length
  let blocks := fld 1 0 32
  let cap := fld 1 32 32
  let most := blocksAtOnce r
  let sizes := match fld 0 11 2 with | 0 => [fld 2 0 16] | 1 => [fld 2 16 16] | _ => [fld 2 0 16, fld 2 16 16]
  let nest := fun (b : List Byte) => namedTable s p r 8 64 = some (some b)
  fun code => match code with
  | 0x01 => fld 0 56 8 ≠ 0 ∨ fld 0 21 1 ≠ 0 ∨ fld 0 0 11 ≠ 0 ∨ fld 0 17 2 = 3 ∨ fld 0 11 2 = 3 ∨ ¬ (1 ≤ fld 0 48 8 ∧ fld 0 48 8 ≤ 32) ∨
      ¬ inSteps 8 128 (fld 0 40 8) ∨ ¬ inSteps 8 64 (fld 0 32 8) ∨ blocks = 0 ∨ fld 2 32 32 ≠ 0 ∨ fld 3 48 16 ≠ 0 ∨
      fld 3 0 48 % (if fld 0 14 1 = 1 then 8 else 32) ≠ 0 ∨ word 6 % 4096 ≠ 0 ∨ fld 11 17 47 ≠ 0 ∨ fld 12 48 9 ≠ 0 ∨ fld 12 0 48 % 32 ≠ 0 ∨
      word 14 ≠ 0 ∨ word 15 ≠ 0 ∨ ∃ b, nest b ∧ NestRefused b
  | 0x02 => 288 < fld 0 22 10 ∨ fld 0 22 10 % 16 ≠ 0
  | 0x03 => det ∧ 112 < fld 0 40 8
  | 0x04 => det ∧ (fld 0 20 1 = 1 ∨ cap < blocks)
  | 0x05 => (∃ z ∈ sizes, z = 0 ∨ 4096 < z ∨ most * cores < z) ∨ fld 2 0 16 < fld 2 16 16
  | 0x06 => most * cores < cap
  | 0x07 => ∃ l, placeList s p r l ∧ ((∃ c ∈ l, ∀ k, p.clusters[c / 8]? = some k → ¬ full k) ∨ Crowds most (l.take cap) ∨ (det ∧ Crowds most l) ∨
      ∃ z ∈ sizes, ∃ k, Crowds most ((l.drop (z * k)).take z))
  | 0x08 => ∃ b, namedTable s p r 7 32768 = some (some b) ∧
      ∃ c, c < 1024 ∧ 4 < ((List.range 256).filter (fun n => (b.getD (128 * n + c / 8) 0#8).getLsbD (c % 8))).length
  | 0x09 => ∃ b, nest b ∧ (cores < blocks ∨ 2 ^ 64 ≤ ((List.range (imgNat b 0 1 + 1)).map (nestBound b)).prod ∨ ∃ l, placeList s p r l ∧ Crowds 1 l)
  | 0x0A => namedTable s p r 8 64 = some none ∨ namedTable s p r 10 (4 * blocks) = some none ∨ namedTable s p r 7 32768 = some none ∨
      namedTable s p r 9 16 = some none ∨ (∀ pa e, translate s.mem p (fld 12 0 48) .wr ≠ .ok pa e)
  | 0x0B => fld 0 15 1 = 1 ∧ cmd = false
  | _ => False

/-! ### Events -/

/-- The wave of an operation still lives in its slot. -/
def OwnerLives (s : State) (core : Nat) (o : VarOp) : Prop := ∃ w, s.wave? core o.wave = some w ∧ w.uid = o.uid
/-- The operation stands in its core's list, alone under its number. -/
def InFlight (s : State) (core : Nat) (o : VarOp) : Prop :=
  s.op? core o.id = some o ∧ OwnerLives s core o
/-- The operation has left and its selected flag's count has fallen by one, no other count differing (R50). -/
def Retired (s t : State) (core : Nat) (o : VarOp) : Prop :=
  (∀ x ∈ (t.core core).ops, x.id ≠ o.id) ∧
  ∀ n, (t.wave core o.wave).count n = (s.wave core o.wave).count n - (if o.flag = some n then 1 else 0)
/-- No operation issued later has written the destination in this issue cycle (R53). -/
def FreeDest (s : State) (core w : Nat) (d : Dest) (id : Nat) : Prop :=
  match d with
  | .v k none => (s.wave core w).later k id = 0#64
  | .v k (some k') => k ≠ k' ∧ (s.wave core w).later k id = 0#64 ∧ (s.wave core w).later k' id = 0#64
  | .s k => (s.wave core w).later (1000 + k) id = 0#64
  | _ => True
/-- A lane of the destination holds a value; a scalar holds it for lane 0 (R53, R57). -/
def Holds (t : State) (core w : Nat) (d : Dest) (lane : Nat) (x : Nat) : Prop :=
  match d with
  | .v k none => rdV (t.core core) (t.wave core w) k lane = BitVec.ofNat 32 x
  | .v k (some k') => rdV (t.core core) (t.wave core w) k lane = BitVec.ofNat 32 x ∧
      rdV (t.core core) (t.wave core w) k' lane = BitVec.ofNat 32 (x / 2 ^ 32)
  | .s k => lane = 0 → rdS (t.core core) (t.wave core w) k = BitVec.ofNat 64 x
  | _ => True
/-- A deferred trap stands among those of its split by the age of its bundle, the oldest first (R187). -/
def DefersIn (old new : List Deferred) (d : Deferred) : Prop :=
  ∃ a b, old = a ++ b ∧ new = a ++ d :: b ∧ (∀ x ∈ a, x.age ≤ d.age) ∧ (∀ x, b.head? = some x → d.age < x.age)
/-- A bundle is staged: it retires, its split's PC, ISN and gap move on, and RETC counts it outside trap mode. -/
def Stages (s1 t : State) (core w n : Nat) (i : Issue) : Prop :=
  t.issue = some i ∧ t.mem = s1.mem ∧
  (i.sp.mpc = none → isMacro i.bundle.c = false →
    (t.wave core w).retc = (if i.pre.inTrap then i.pre.retc else i.pre.retc + 1) ∧
    (i.sp.nest = none → ((t.wave core w).split n).isn = i.sp.isn + 1 ∧ ((t.wave core w).split n).gap = i.bundle.gap.toNat + 1 ∧
      ((t.wave core w).split n).pc = (i.sp.pc + 1) % 2 ^ 64 ∧ ((t.wave core w).split n).mask = i.sp.mask))
/-- Results due for arrival. -/
def dueResult (id : Nat) (r : FRes) : Bool := r.id == id && r.rem == 0 && !r.arrived
/-- The status of a RECV (Table 18.4): the truncation bit, the length less 1 and the number. -/
def recvStatus (room len num : Nat) : Nat := 2 ^ 48 * (if len = room then 0 else 1) + 2 ^ 32 * ((len - 1) % 2048) + num % 2 ^ 32
/-- Home memory after the stores of several lanes, in lane order (R164). -/
def storeAll (size : Nat) (cop : CacheOp) : List Req → Mems → Option Mems
  | [], m => some m
  | r :: rs, m => match r.loc with | .pa a => (m.store a size r.data).bind (fun m => storeAll size cop rs (m.noteWrite a cop)) | _ => none
/-- The old values and home memory after the atomics of several lanes, in lane order (R165). -/
def atomAll (op : AtomOp) (ty : ATy) : List Req → Mems → Option (List Nat × Mems)
  | [], m => some ([], m)
  | r :: rs, m =>
    let n := if ty.wide then 8 else 4
    match r.loc with
    | .pa a => (m.load a n).bind (fun old => (m.store a n (atomNew op ty old r.data r.data2)).bind (fun m =>
        (atomAll op ty rs (m.noteWrite a .cd)).map (fun x => (old :: x.1, x.2))))
    | _ => none
/-- Every request of an operation may perform now, at a home of this package. -/
def AllDue (s : State) (core : Nat) (o : VarOp) : Prop :=
  o.rem = 0 ∧ (o.reqs.map (·.lane)).Nodup ∧ ∀ r ∈ o.reqs, reqDue (s.core core).ops o r = true ∧ r.err = false ∧ r.lane < 64 ∧
    ∃ pa, r.loc = .pa pa ∧ isRemote pa = false ∧ isCarrier pa = false
/-- The completions of M-slot operations beside loads, stores and atomics: the operation's kind as it retires, and its event. -/
def plainEnd (s : State) (core : Nat) (o : VarOp) : Option Instr :=
  match o.kind with
  | .fence _ _ => if fenceOk (s.core core).ops o then some (.fenceSatisfied core o.id) else none
  | .acqPart => if fenceOk (s.core core).ops o then some (.fenceSatisfied core o.id) else none
  | .idleFence _ => if fenceOk (s.core core).ops o then some (.fenceSatisfied core o.id) else none
  | .empty => some (.fenceSatisfied core o.id)
  | .flush _ _ => some (.flushCompletion core o.id)
  | .bpref _ _ => some (.bprefCompletion core o.id)
  | .pref => some (.prefCompletion core o.id)
  | .drain rel ds => if o.rem = 0 ∧ (o.padded = true ∨ (rel = true ∧ o.reqs.all (·.done) = true) ∨ (rel = false ∧ s.writesTo core o ds true = false))
      then some (.drainCompletion core o.id) else none
  | _ => none
/-- A running engine command has left the queue and its tag is set, with its error bit when it failed (R233, R237). -/
def TagSets (t : State) (core tag : Nat) (err : Bool) : Prop :=
  (t.core core).tags.getLsbD tag = true ∧ (err = true → (t.core core).tagerr.getLsbD tag = true)
/-- An operand element under its format and block scale: NaN under a reserved code or a NaN scale (R21, R22, R91). -/
def operandElement (fmt x : Nat) (scale : Option Nat) : XV :=
  match FFmt.of fmt, scale with
  | none, _ => .nan false
  | some _, some 0xFF => .nan false
  | some f, some e => (decFmt f x).scale2 ((e : Int) - 127)
  | some f, none => decFmt f x
/-- An integer element; zero under a reserved code (R21). -/
def intElement (fmt x : Nat) : Int := match ITy.ofFmt fmt with | some t => t.dec x | none => 0
/-- The exact sum of products; NaN where one of them is, or where infinities are opposed (R34). -/
def exactSum : List XV → XV | [] => XV.zero true | x :: r => r.foldl (fun a y => (addX false a y).1) x
/-- An accumulator element after a K-block of element pairs: the exact sum of the products added, rounded once; integers modulo 2 to the 32 (R34, R217). -/
def kBlock (int : Bool) (fa fb old : Nat) (l : List ((Nat × Option Nat) × (Nat × Option Nat))) : Nat :=
  let ints : List Int := l.map (fun x => intElement fa x.1.1 * intElement fb x.2.1)
  let products : List XV := l.map (fun x => (mulX (operandElement fa x.1.1 x.1.2) (operandElement fb x.2.1 x.2.2)).1)
  if int then (((old : Int) + ints.sum) % 2 ^ 32).toNat else (roundFmt .f32 .rn false 0 (addX false (decF .f32 old) (exactSum products)).1).1
/-- A column's pair at row r below level l of the scan (R219). -/
def prefixAt (inp : List (Nat × Nat)) : Nat → Nat → Nat × Nat
  | 0, r => inp.getD r (0, 0)
  | l + 1, r =>
    if r.testBit l then
      let y := prefixAt inp l r
      let p := prefixAt inp l (r / 2 ^ (l + 1) * 2 ^ (l + 1) + 2 ^ l - 1)
      (compose y.1 y.2 p.1 p.2).1
    else prefixAt inp l r
/-- The commit of an MMA's K-block: every element of the tile, and what it leaves alone (R217). Operands and scales are as the unit read them. -/
def MmaUnit (s t : State) (c : Nat) (x : Task) : Prop :=
  let w := x.words
  let cl := s.cluster c
  let A := opdOf w 1 x.cols
  let B := opdOf w 3 x.cols
  let nk := Nat.min 32 (tK w - 32 * x.unit)
  let ks := (List.range nk).map (fun k => 32 * x.unit + k)
  let m := cl.marr x.arrNo
  let m' := (t.cluster c).marr x.arrNo
  let place := accAt cl.paired (cl.halfOf x.core (tAcc w)) (tAccop w)
  tKind w = 1 → tM w ≤ 128 → tN w ≤ 128 → (cl.paired = true → 2 ≤ tAccop w → tN w ≤ 64) →
  ∀ av bv sa sb s1 s2 s3 u, State.opdList x 0 A 0 (grid2 (List.range (tM w)) ks) s = (.ok av, s1) →
    State.opdList x 1 B 0 (grid2 ks (List.range (tN w))) s1 = (.ok bv, s2) →
    State.scaleBytes x (if A.blk then (List.range (tM w)).map (fun i => 8 * rw w 7 0 16 + i * tUnits w + x.unit) else []) s2 = (.ok sa, s3) →
    State.scaleBytes x (if B.blk then (List.range (tN w)).map (fun j => 8 * rw w 7 16 16 + x.unit * tN w + j) else []) s3 = (.ok sb, u) →
    (u.cluster c).arrays = cl.arrays → NMap.get? u.clusters c ≠ none →
    (∀ i j, i < tM w → j < tN w →
      let e := place i j
      let old := if tAccop w = 1 ∧ x.unit = 0 then (if tInt w then 0 else 0x80000000) else (m.rd e.1 e.2.1 e.2.2).toNat
      m'.rd e.1 e.2.1 e.2.2 = BitVec.ofNat 32 (kBlock (tInt w) A.fmt B.fmt old ((List.range nk).map (fun k =>
        ((av.getD (i * nk + k) 0, if A.blk then some (sa.getD i 0) else none), (bv.getD (k * tN w + j) 0, if B.blk then some (sb.getD j 0) else none)))))) ∧
    (∀ h r k, r < 128 → k < 128 → (∀ i j, i < tM w → j < tN w → place i j ≠ (h, r, k)) → m'.rd h r k = m.rd h r k) ∧ m'.carry = m.carry
/-- The commit of a tile of AFFSCAN: the composed prefixes in the affine tile and, with OUTEN, in the planes of memory; the carry takes the last row's (R219,
R220). The accumulator's pairs, where they are the input, are those of the task's start. -/
def ScanUnit (s t : State) (c : Nat) (x : Task) : Prop :=
  let w := x.words
  let cl := s.cluster c
  let A := opdOf w 1 x.cols
  let B := opdOf w 3 x.cols
  let pts := grid2 (List.range (tM w)) (List.range (tN w))
  let m := cl.marr x.arrNo
  let m' := (t.cluster c).marr x.arrNo
  let half := cl.halfOf x.core (tAcc w)
  let kc := cl.carryOf x.core (tKc w)
  let own := fun (off : Bool) => pts.map (fun y => let a := affAt cl.paired half off y.1 y.2; (VMap.rd x.tile0 (16384 * a.1 + 128 * a.2.1 + a.2.2)).toNat)
  tKind w = 2 → tM w ≤ 128 → tN w ≤ 128 → (cl.paired = true → tN w ≤ 64) →
  ∀ gs os s1 s2 u, (A.src = 0 → gs = own false ∧ os = own true ∧ s2 = s) →
    (A.src ≠ 0 → State.opdList x 0 A x.unit pts s = (.ok gs, s1) ∧ State.opdList x 1 B x.unit pts s1 = (.ok os, s2)) →
    let exact := fun (fmt y : Nat) => if A.src = 0 then y else toF32 fmt y
    let out := fun (r k : Nat) =>
      let y := prefixAt ((List.range (tM w)).map (fun r => (exact A.fmt (gs.getD (r * tN w + k) 0), exact B.fmt (os.getD (r * tN w + k) 0)))) 7 r
      (compose y.1 y.2 (m.rdC kc k 0).toNat (m.rdC kc k 1).toNat).1
    State.opdWrite x (opdOf w 5 x.cols) (if rw w 0 14 1 = 1 then pts.flatMap (fun y =>
      [(2 * x.unit, y.1, y.2, (out y.1 y.2).1), (2 * x.unit + 1, y.1, y.2, (out y.1 y.2).2)]) else []) s2 = (none, u) →
    (u.cluster c).arrays = cl.arrays → NMap.get? u.clusters c ≠ none →
    t.mem = u.mem ∧
    (∀ r k, r < tM w → k < tN w →
      let g := affAt cl.paired half false r k
      let o := affAt cl.paired half true r k
      m'.rd g.1 g.2.1 g.2.2 = BitVec.ofNat 32 (out r k).1 ∧ m'.rd o.1 o.2.1 o.2.2 = BitVec.ofNat 32 (out r k).2) ∧
    (∀ h r k, r < 128 → k < 128 → (∀ i j off, i < tM w → j < tN w → affAt cl.paired half off i j ≠ (h, r, k)) → m'.rd h r k = m.rd h r k) ∧
    (∀ k, k < tN w → m'.rdC kc k 0 = BitVec.ofNat 32 (out (tM w - 1) k).1 ∧ m'.rdC kc k 1 = BitVec.ofNat 32 (out (tM w - 1) k).2) ∧
    (∀ n k, k < 128 → n ≠ kc ∨ tN w ≤ k → ∀ o, o < 2 → m'.rdC n k o = m.rdC n k o)
/-- The commit of AFFMAP: its output is gain times state plus offset, rounded once; it writes no accumulator and no carry (R387). The tile and the carry are those
of the task's start. -/
def MapUnit (s t : State) (c : Nat) (x : Task) : Prop :=
  let w := x.words
  let cl := s.cluster c
  let A := opdOf w 1 x.cols
  let O := opdOf w 5 x.cols
  let half := cl.halfOf x.core (tAcc w)
  let tile := fun (off : Bool) (y : Nat × Nat) => let a := affAt cl.paired half off y.1 y.2
    decF .f32 (VMap.rd x.tile0 (16384 * a.1 + 128 * a.2.1 + a.2.2)).toNat
  tKind w = 3 →
  ∀ F hs s1 u, FFmt.of O.fmt = some (.ieee F) →
    (A.src = 0 → hs = (List.range (tN w)).map (fun k => (VMap.rd x.carry0 (256 * cl.carryOf x.core (tKc w) + 2 * k + 1)).toNat) ∧ s1 = s) →
    (A.src ≠ 0 → State.opdList x 0 A 0 ((List.range (tN w)).map (fun k => (0, k))) s = (.ok hs, s1)) →
    State.opdWrite x O ((grid2 (List.range (tM w)) (List.range (tN w))).map (fun y => (0, y.1, y.2, (roundFmt F .rn false 0 (mulAdd false (tile false y)
      (if A.src = 0 then decF .f32 (hs.getD y.2 0) else operandElement A.fmt (hs.getD y.2 0) none) (tile true y)).1).1))) s1 = (none, u) →
    (u.cluster c).arrays = cl.arrays → NMap.get? u.clusters c ≠ none →
    t.mem = u.mem ∧ (t.cluster c).marr x.arrNo = cl.marr x.arrNo
/-- A unit of a task commits: what its kind computes (R217, R219, R220, R387). -/
def UnitDone (s t : State) (c : Nat) (x : Task) : Prop :=
  (∀ y ∈ usedOpds x.words x.cols, y.2.src = 2 → ∃ g, s.grid? x.grid = some g ∧ g.onCore (x.core ^^^ 1) = true) →
  MmaUnit s t c x ∧ ScanUnit s t c x ∧ MapUnit s t c x
/-- The place of byte j of point n of a copy in a scratchpad, at its source and at its destination (R152, R240). -/
def copySrc (w : List W64) (n j : Nat) : Nat := rotE ((cpSrc w (cpPoint w n) % 2 ^ 64).toNat + j) (cw w 2 8 4)
def copyDst (w : List W64) (n j : Nat) : Nat := rotE ((cpDst w (cpPoint w n) % 2 ^ 64).toNat + j) (cw w 2 12 4)
/-- A scratchpad after points a to b - 1 of a copy were written: where two write one byte the later stands, and no other byte differs (R240). -/
def CopiesTo (before after : Core) (w : List W64) (a b size : Nat) (value : Nat → Nat → Byte) : Prop :=
  (∀ n j, a ≤ n → n < b → j < size → (∀ m i, n < m → m < b → i < size → copyDst w m i ≠ copyDst w n j) → after.spRaw (copyDst w n j) = value n j) ∧
  (∀ e, (∀ n j, a ≤ n → n < b → j < size → copyDst w n j ≠ e) → after.spRaw e = before.spRaw e)
/-- No store of a wave is pending in a scratchpad (R163). -/
def NoPendingStore (c : Core) : Prop := ∀ o ∈ c.ops, o.kind ≠ .spStore
/-- Only the package differs. -/
def OnlyPack (s t : State) : Prop := t = { s with pack := t.pack, fresh := t.fresh }
/-- A message has gone out last. -/
def Sent (s t : State) (m : OutMsg) : Prop := t.pack.out = s.pack.out ++ [m]
/-- The decision of a thermal level from a reading (Table 16.3). -/
def levelAfter (k : Sensor) (temp : Nat) : Nat :=
  let reach := if k.trip ≤ temp then 3 else if k.throt ≤ temp then 2 else if k.warn ≤ temp then 1 else 0
  let below := fun (x : Nat) => decide (temp + k.hyst < x)
  if 3 ≤ k.level then 3
  else if k.level = 2 then (if reach = 3 then 3 else if below k.throt then (if below k.warn then 0 else 1) else 2)
  else if k.level = 1 then (if 2 ≤ reach then reach else if below k.warn then 0 else 1)
  else reach

/-- Permits at a boost interval boundary: every fourth one adds a permit for each cluster idle for 16 µs, up to CAP (R342). -/
def boostPool (s : State) : Nat :=
  let idle := s.compute.filter (fun c => !(s.resident c) && !((s.cluster c).engines) &&
    (match NMap.get? s.pack.idle c with | some b => decide (b + 16000 < s.timeNs) | none => true))
  if s.timeNs / 4000 % 4 = 0 then Nat.min s.pack.cap (s.pack.count + idle.length) else s.pack.count
/-- An eligible cluster whose launch asks for a boost claims a permit, after a denial once the pool holds REARM of them (R342). -/
def claimsBoost (s : State) (pool c : Nat) : Bool :=
  s.eligible c && (s.cluster c).boost.getLsbD 0 && (!(s.cluster c).denied || decide (s.pack.rearm ≤ pool) || (s.cluster c).armed)

/-! ### Energy (R348, R349) -/

/-- The pools of Table 16.4: 0 to 23 the dynamic parts of the compute islands, 24 their static parts together, then HBM PHY, UALink, NoC and L2, cistern and hinge,
and management. What the controller measured of one, in nJ. -/
def poolEnergy (m : List Nat) (pool : Nat) : Nat :=
  if pool < 24 then meter m pool else if pool = 24 then ((List.range 24).map (fun i => meter m (24 + i))).sum else meter m (48 + (pool - 25))
/-- The subcounter of a pool. -/
def poolCtr (pool : Nat) : SubCtr := if pool < 24 then .cdyn else if pool = 24 then .stat else if pool = 25 then .hbm else if pool = 26 then .fab else .unc
/-- What a partition counts for in a pool: owning the island; its clusters; activations and bytes; flits; its time with a grid in flight. -/
def rawWeight (m : List Nat) (pool n : Nat) (q : Part) : Nat :=
  if pool < 24 then (if q.islands.contains pool then 1 else 0)
  else if pool = 24 then q.clusters.length
  else if pool = 25 then meter m (53 + n)
  else if pool = 26 then meter m (61 + n)
  else q.busyNs
/-- Its weight: by allocated clusters where no partition counts for anything in the HBM pool or one of the last three. -/
def poolWeight (s : State) (m : List Nat) (pool n : Nat) (q : Part) : Nat :=
  if (pool = 25 ∨ 27 ≤ pool) ∧ (∀ e ∈ s.parts, rawWeight m pool e.1 e.2 = 0) then q.clusters.length else rawWeight m pool n q
def poolTotal (s : State) (m : List Nat) (pool : Nat) : Nat := (s.parts.map (fun e => poolWeight s m pool e.1 e.2)).sum
/-- What a pool has to give: its energy of the span and the remainder carried on. -/
def poolNj (s : State) (m : List Nat) (pool : Nat) : Nat := poolEnergy m pool + NMap.getD s.pack.rem 0 pool
/-- A partition's share of a pool, in whole microjoules. -/
def poolShare (s : State) (m : List Nat) (pool n : Nat) (q : Part) : Nat := poolNj s m pool * poolWeight s m pool n q / poolTotal s m pool / 1000
/-- A bank's subcounter. -/
def subOf (b : EBank) : SubCtr → Nat | .cdyn => b.cdyn | .hbm => b.hbm | .fab => b.fab | .stat => b.stat | .unc => b.unc
/-- TOTAL is the sum of the subcounters, as 64-bit counters count (R348). -/
def EBank.Sums (b : EBank) : Prop := b.total % 2 ^ 64 = (b.cdyn + b.hbm + b.fab + b.stat + b.unc) % 2 ^ 64
def BanksSum (p : Pack) : Prop := ∀ n b, NMap.get? p.banks n = some b ∨ NMap.get? p.nv.banks n = some b → EBank.Sums b
/-- The events that write a bank or its committed copy. -/
def writesBanks : Instr → Bool
  | .energySpan _ => true | .energyCommit => true | .signedReadingRequest _ _ => true | .partitionAllocation _ => true | .partitionFree _ => true
  | .thermalPoll _ => true | .coldReset _ => true | .warmReset _ => true | .watchdogReset _ => true | .powerLoss => true | _ => false

/-! ### The whole machine -/

/-- The slot an operation may stand in (R65, R77). -/
def fitsSlot (k : Slot) (i : Instr) : Prop := i = .nop ∨ i.slot = some k
/-- The slots of a bundle hold operations of their classes that a bundle may hold (R65, R71, R77). -/
def legalBundle (b : Bundle) : Prop :=
  (b.v.wfBundle = true ∧ fitsSlot .v b.v) ∧ (b.m.wfBundle = true ∧ fitsSlot .m b.m) ∧ (b.x.wfBundle = true ∧ fitsSlot .x b.x) ∧
  (b.c.wfBundle = true ∧ fitsSlot .c b.c)

end Sys2Proof.Spec

open Sys2Proof Sys2Proof.Machine Sys2Proof.Spec

/-- R92: FADD, FSUB, FMUL, FMA, FMS and FNMA compute the exact result of Table 4.3 and round it once. -/
def Obligations.FloatArithmetic : Prop := VResult floatArith
/-- R93, R94, R96: FMIN, FMAX, FCMP and FCLS. -/
def Obligations.FloatCompare : Prop := VResult floatPick
/-- R97 to R101, R109: FRND, FCVT, FDOT2, FSCL, AFCP, FTOI and ITOF. Which of FCVT, FTOI and ITOF with DST 0xE0 are scalar operations is the model's
choice (assumption 103). -/
def Obligations.FloatConversion : Prop := VResult floatConvert ∧ VResult intFloat
/-- R102: FRCP, FRSQ, FSQRT, FEX2, FLG2, FSIN, FCOS and FTNH, with the special cases of Table 4.6, their flags, and the exact points. The value of the
transcendental functions elsewhere is the model's fixed-point evaluation (assumption 9). -/
def Obligations.SpecialFunctions : Prop := VResult special
/-- R95, R104 to R108: IADD, ISUB, IADC, IMUL, IMULH, IMAD, IMIN, IMAX, IABS, ICMP and ICVT. Which ICVT with DST 0xE0 is a scalar operation is the
model's choice (assumption 103). -/
def Obligations.IntegerArithmetic : Prop := VResult intArith
/-- R110 to R113: AND, OR, XOR, ANDN, SHL, SHR, SAR, ROTL, POPC, CLZ, BREV, BFE, BFI and PRMB. -/
def Obligations.BitOperations : Prop := VResult bitOps
/-- R114, R115, R120 to R123: MOV, SEL, MOVI, MOVH, PLOG, PMOV, PCNT, PFFS and RAND. What MOVI.sx with a queue or 0xE0 as its destination does is the
model's choice (assumption 82). -/
def Obligations.MovesAndPredicates : Prop := VResult moves
/-- R59, R116, R117: SHUF, LBRD, ROWB, COLB and TRNS write the element of the lane they choose, zero for an inactive one. A
well-formed one has no scalar form (R86). -/
def Obligations.LaneMoves : Prop :=
  ∀ ins v, laneMove ins = true → ins.wf = true → ins.vinfo = some v → ∀ s i, Executing s i →
    ∃ t, exec ins s = .next t ∧ VDoes s t i v none false (fun l => ((laneRd s i v 0 0 (sourceLane s i v l ins) : Nat), 0#6))
/-- R35, R36, R118, R119: LRED and LSCN. That a list of one item passes as it stands is the model's reading (assumption 83), and an inactive lane gives LSCN the
identity of R119, where R59 lists it under zero (assumption 84). An inclusive scan combines each lane's first value with the identity, as the pseudocode
of R119 does (assumption 83). -/
def Obligations.LaneReductions : Prop :=
  ∀ ins v, laneReduction ins = true → ins.wf = true → ins.vinfo = some v → ∀ s i, Executing s i →
    ∃ t, exec ins s = .next t ∧ VDoes s t i v none false (fun l => reduced s i v l ins)

/-- R31, R58, R103: FDIV enters flight with the correctly rounded quotients of its active lanes and their flags, DZ and NV by the operands and OF, UF and NX of the
rounding, by its selected flag; each queue it names as a source loses its head; no register changes yet and it has no result in the window. -/
def Obligations.Division : Prop :=
  ∀ o t r f s i, Executing s i → i.flagTrap f 1 = none →
    let v := vBin o false .fdiv
    ∃ u op d vals fl, exec (.fdiv o t r f) s = .next u ∧ (u.core i.core).ops = (s.core i.core).ops ++ [op] ∧ Belongs s i op ∧
      op.flag = i.flagOf f ∧ Raises s u i (i.flagOf f) ∧ op.kind = .fdiv d vals (effMask v.isScalar (i.act o.p)) fl ∧
      destIs i (some o.d) false none d ∧
      (∀ l, l < 64 → (effMask v.isScalar (i.act o.p)).getLsbD l = true →
        RMap.rd vals l = element v.isScalar false
          (finish t r false (word i r l) (fdivX (decF t (s.vOperand i v 0 l)) (decF t (s.vOperand i v 1 l)))).1) ∧
      (v.isScalar = true → fl = if i.act o.p = 0#64 then 0#6 else quotientFlags s i v t r 0) ∧
      (v.isScalar = false → ∀ k, fl.getLsbD k = true ↔ ∃ l, l < 64 ∧ (i.act o.p).getLsbD l = true ∧ (quotientFlags s i v t r l).getLsbD k = true) ∧
      (u.splitAt i).win = ((s.splitAt i).kill d (effMask v.isScalar (i.act o.p))).win ∧ RngMoves s u i (r == .sr) ∧ QueuesPop s u i v none ∧
      OnlyCores s u ∧ OtherCores s u i.core ∧ OtherWaves s u i.core i.wave ∧
      { waveRest (u.waveAt i) with rngidx := 0#48 } = { waveRest (s.waveAt i) with rngidx := 0#48 }

/-- R153, R162, R164: LD, LDB and LDT of the scratchpad with an affine address read at their place in the issue order and land
in the M latch after 6 + (d - 1) issue cycles and the bank penalty. Where the second word of a 64-bit element stands under an odd rotation
is the model's reading (assumption 68). -/
def Obligations.FixedLoads : Prop :=
  ∀ ins o f, loadOf ins = some o → mform ins = some f → fixedMem ins f = true → ∀ s i, Executing s i → s.memTrap i f o.fsel = none →
    ∃ t r, exec ins s = .next t ∧
      (t.splitAt i).win = ((s.splitAt i).kill r.dest r.mask).win ++ [r] ∧ destIs i (some f.data) (f.size == 8) none r.dest ∧
      r.isn = i.isn ∧ r.mem = true ∧ r.rem = 6 + (f.degree (s.core i.core) i.pre i.sp - 1) + i.pen ∧ r.arrived = false ∧
      r.mask = f.lanes i.pre i.sp ∧ r.live = r.mask ∧ r.flags = 0#6 ∧
      (∀ l, l < 64 → (f.lanes i.pre i.sp).getLsbD l = true →
        RMap.rd r.vals l = BitVec.ofNat 64 ((s.core i.core).spLoad (spPlace s i f l) f.size)) ∧ VFrame s t i

/-- R157, R159, R164: every other load enters flight by its flag. In the scratchpad its values are those of its issue; elsewhere
it asks for one access per active lane at the lane's address. No register and no memory changes yet. -/
def Obligations.VariableLoads : Prop :=
  ∀ ins o f, loadOf ins = some o → mform ins = some f → fixedMem ins f = false → ∀ s i, Executing s i → s.memTrap i f o.fsel = none →
    s.missing i.core i.pre i.sp f = 0#64 →
    ∃ t op d, exec ins s = .next t ∧ Sends s t i (i.flagOf o.fsel) d (f.lanes i.pre i.sp) op ∧
      d = (s.destOf i f.data (f.size == 8)).1 ∧
      op.kind = .load d o.size.bytes (o.space == .c) (if o.space = .h then .cg else o.cop) ∧
      op.reqs.map Req.shape = (sentBefore (s.core i.core) i ++
        (if o.space = .s then (s.accesses i f (f.lanes i.pre i.sp) (fun _ => (0, 0))).map (fun r => match r.loc with
            | .sp e => { r with done := true, val := (s.core i.core).spLoad e f.size } | _ => r)
         else s.accesses i f (State.lanesLeft i f) (fun _ => (0, 0)))).map Req.shape

/-- R162, R164: a store to the scratchpad, affine or .x, is seen by every later access of the core's waves: each byte reads as the
highest active lane that writes it left it, and every other byte as before. Registers stand. Where the second word of a 64-bit element stands
under an odd rotation is the model's reading (assumption 68). -/
def Obligations.ScratchpadStores : Prop :=
  ∀ ins o f, storeOf ins = some o → mform ins = some f → o.space = .s → ∀ s i, Executing s i → s.memTrap i f o.fsel = none →
    ∃ t, exec ins s = .next t ∧
      (∀ e, (t.core i.core).spRd e = (storedByte s i f e).getD ((s.core i.core).spRd e)) ∧
      Raises s t i (if fixedMem ins f then none else i.flagOf o.fsel) ∧
      OnlyCores s t ∧ OtherCores s t i.core ∧ OtherWaves s t i.core i.wave ∧ OtherSplits s t i ∧
      coreButScratch (t.core i.core) = coreButScratch (s.core i.core) ∧ waveRest (t.waveAt i) = waveRest (s.waveAt i) ∧
      splitRest (t.splitAt i) = splitRest (s.splitAt i)

/-- R157, R159, R164: a store to another space enters flight with the data read at issue and one access per active lane; memory
changes when it performs. -/
def Obligations.GlobalStores : Prop :=
  ∀ ins o f, storeOf ins = some o → mform ins = some f → o.space ≠ .s → ∀ s i, Executing s i → s.memTrap i f o.fsel = none →
    s.missing i.core i.pre i.sp f = 0#64 →
    ∃ t op, exec ins s = .next t ∧ Sends s t i (i.flagOf o.fsel) .none 0#64 op ∧ op.kind = .store o.size.bytes o.cop ∧
      op.reqs.map Req.shape = (sentBefore (s.core i.core) i ++ s.accesses i f (State.lanesLeft i f) (fun l => (s.mData i f l, 0))).map Req.shape

/-- R165, R166: the new value of every atomic, on old and operand of its width. -/
def Obligations.AtomicValues : Prop :=
  ∀ op ty old v c, old < 2 ^ (if ty.wide then 64 else 32) → v < 2 ^ (if ty.wide then 64 else 32) → atomNew op ty old v c = atomValue op ty old v c

/-- R162, R165 to R167: ATOM and CAS. In the scratchpad they read and write at one place of the issue order, lane by lane, and
return the old values by their flag; elsewhere they send one access per active lane, and the scratchpad stands. An acquire brings its fence, by the
model's reading as a part of its own that the flag waits for (assumption 34). That DATA 0xE0 acts lane by lane with nothing written is the model's choice
(assumption 21), and where the second word of a 64-bit element stands under an odd rotation its reading (assumption 68). No other core or wave changes. -/
def Obligations.Atomics : Prop :=
  ∀ ins o a f, atomicOf ins = some (o, a) → mform ins = some f → ∀ s i, Executing s i → s.memTrap i f o.fsel = none →
    s.missing i.core i.pre i.sp f = 0#64 →
    ∃ t op d pre post, exec ins s = .next t ∧ d = (s.destOf i f.data o.ty.wide).1 ∧ op.kind = .atom d a o.ty o.ord ∧ Belongs s i op ∧
      op.flag = i.flagOf o.fsel ∧ Raises s t i (i.flagOf o.fsel) ∧
      (t.core i.core).ops = pre ++ op :: post ∧ pre.map (·.id) = (keptOps (s.core i.core) i).map (·.id) ∧
      post.map (·.kind) = (if acquires o ∧ f.lanes i.pre i.sp ≠ 0#64 then [.acqPart] else []) ∧
      (o.space = .s → i.gatherOp = none →
        let r := spAtomics a o.ty (s.core i.core) (s.accesses i f (f.lanes i.pre i.sp) (atomData s i o a f))
        (∀ e, (t.core i.core).spRd e = r.1.spRd e) ∧ op.reqs.map Req.shape = r.2.map Req.shape) ∧
      (o.space ≠ .s →
        op.reqs.map Req.shape = (sentBefore (s.core i.core) i ++ s.accesses i f (State.lanesLeft i f) (atomData s i o a f)).map Req.shape) ∧
      (o.space ≠ .s → ∀ e, (t.core i.core).spRd e = (s.core i.core).spRd e) ∧
      OtherCores s t i.core ∧ OtherWaves s t i.core i.wave ∧ t.mem = s.mem ∧ waveRest (t.waveAt i) = waveRest (s.waveAt i)

/-- R168, R306: WAITA enters flight with its comparand, its deadline and its one access. Outside DET it takes its watch at once; where the
table is full, the oldest entry leaves it. -/
def Obligations.WaitOnAddress : Prop :=
  ∀ o f s i, mform (.waita o) = some f → Executing s i → s.memTrap i f o.fsel = none → s.missing i.core i.pre i.sp f = 0#64 →
    let watches := s.isDet i.core = false ∧ f.lanes i.pre i.sp ≠ 0#64
    ∃ t op older every, exec (.waita o) s = .next t ∧ (t.core i.core).ops = older ++ [op] ∧
      older.map (·.id) = (keptOps (s.core i.core) i).map (·.id) ∧ (¬ watches ∨ (s.core i.core).watch.length < 16 → older = keptOps (s.core i.core) i) ∧
      Belongs s i op ∧ op.flag = i.flagOf o.fsel ∧ Raises s t i (i.flagOf o.fsel) ∧
      (t.splitAt i).win = ((s.splitAt i).kill (i.pre.scalarDest o.data) (f.lanes i.pre i.sp)).win ∧
      OnlyCores s t ∧ OtherCores s t i.core ∧ OtherWaves s t i.core i.wave ∧ OtherSplits s t i ∧
      { coreRest (t.core i.core) with watch := [] } = { coreRest (s.core i.core) with watch := [] } ∧
      waveRest (t.waveAt i) = waveRest (s.waveAt i) ∧ splitRest (t.splitAt i) = splitRest (s.splitAt i) ∧
      (¬ watches → (t.core i.core).watch = (s.core i.core).watch) ∧
      (watches → (t.core i.core).watch.map (·.1) =
        (if (s.core i.core).watch.length < 16 then (s.core i.core).watch else (s.core i.core).watch.tail).map (·.1) ++ [op.id]) ∧
      op.kind = .waita (i.pre.scalarDest o.data) ((scalarData (s.core i.core) i.pre o.data).toNat % 2 ^ (if o.wide then 64 else 32))
        (if o.wide then 8 else 4) (if o.tmo = 7#3 then none else some (2 ^ (10 + 2 * o.tmo.toNat) + (s.cluster (clusterOf i.core)).ic)) every ∧
      (i.gatherOp = none → op.reqs.map (fun r => (r.lane, r.loc)) =
        (lanesOf (State.lanesLeft i f)).filterMap (fun l => (s.locOf i.core i.pre i.sp f l).map (fun x => (l, x))))

/-- R156, R170: L1INV drops every line of the core's L1, those of .c too, if some lane is active, and what loads in flight would fill is not
installed; it changes nothing else. R171 to R174: FENCE, FLUSH, BPREF and PREF enter flight by their flag; no value in memory and no register changes; BPREF clears
its tag at issue. The sectors a FLUSH.l names are the model's choice (assumption 76). -/
def Obligations.FencesAndPrefetch : Prop :=
  (∀ p s i, Executing s i → ∃ t, exec (.l1inv p) s = .next t ∧ t.mem = s.mem ∧ OtherCores s t i.core ∧
    t.core i.core = (if i.act p = 0#64 then s.core i.core
      else { s.core i.core with l1 := [], ops := (s.core i.core).ops.map (fun o : VarOp => { o with noFill := true }) })) ∧
  (∀ ins s i f k, Executing s i → plainOp s i ins = some (f, k) → i.flagTrap f 2 = none →
    ∃ t op, exec ins s = .next t ∧ (t.core i.core).ops = (s.core i.core).ops ++ [op] ∧ Belongs s i op ∧ op.kind = k ∧ op.flag = i.flagOf f ∧
      op.reqs = failsAtIssue s i ins ∧ Raises s t i (i.flagOf f) ∧ OnlyCores s t ∧ OtherCores s t i.core ∧ waveRest (t.waveAt i) = waveRest (s.waveAt i) ∧
      (t.core i.core).tags = (s.core i.core).tags &&& ~~~ (clearedTag ins) ∧ (t.core i.core).tagerr = (s.core i.core).tagerr &&& ~~~ (clearedTag ins) ∧
      (t.core i.core).l1 = (s.core i.core).l1 ∧ (t.core i.core).scratch = (s.core i.core).scratch)

/-- R377, R378: DRAIN and DRAIN.rel enter flight with their destinations, all peers sent to where they name none; the markers of a DRAIN.rel leave
after the wave's earlier writes have, which is the model's reading (assumption 70). -/
def Obligations.Drains : Prop :=
  ∀ (rel : Bool) p dest f s i, Executing s i → s.drainBad i p dest f = none →
    let ds := if i.act p = 0#64 then [] else s.drainDests i dest
    ∃ t op, exec (if rel then .drainRel p dest f else .drain p dest f) s = .next t ∧ (t.core i.core).ops = keptOps (s.core i.core) i ++ [op] ∧
      Belongs s i op ∧ op.kind = (if i.act p = 0#64 then .empty else .drain rel ds) ∧ op.flag = i.flagOf f ∧ Raises s t i (i.flagOf f) ∧
      t.mem = s.mem ∧ waveRest (t.waveAt i) = waveRest (s.waveAt i) ∧ t.pack = s.pack ∧
      (i.gatherOp = none → op.reqs.map (·.done) = (if ds = [] then [] else [!rel]))

/-- R249, R253: LDSET sends one request to each member of its set; the loading core's own row is read at its place in the issue
order, its 64 words as its scratchpad gives them then, and no other row is read yet. -/
def Obligations.SetLoads : Prop :=
  ∀ o s i, Executing s i → s.ldsetBad i o = none →
    ∃ t op, exec (.ldset o) s = .next t ∧ Sends s t i (i.flagOf o.fsel) (s.destOf i o.data false).1 (i.act o.p) op ∧
      op.kind = .ldset (s.destOf i o.data false).1 o.set.toNat (s.ldsetAddr i o) (affRot (readS (s.core i.core) i.pre o.base.toNat))
        o.op (i.act o.p) i.pre.retc ∧
      (i.gatherOp = none → op.reqs.map (fun r => r.lane) = (if i.act o.p = 0#64 then [] else
        match s.issGrid i with | some g => (NMap.get? g.sets o.set.toNat).getD [] | none => [])) ∧
      (i.gatherOp = none → ∀ r ∈ op.reqs, (r.lane ≠ i.pre.lcore → r.done = false) ∧ (r.lane = i.pre.lcore → r.done = true ∧ r.err = false ∧
        ∀ l, l < 64 → r.val / 2 ^ (32 * l) % 2 ^ 32 =
          (s.core i.core).spLoad (rotE (s.ldsetAddr i o + 4 * l) (affRot (readS (s.core i.core) i.pre o.base.toNat))) 4))

/-- R379, R380: SEND and RECV enter flight with the peer, the channel, the words and the buffer their scalars name. Outside DET a
RECV takes, as it issues, the oldest message of its peer and channel that no earlier RECV waits for. -/
def Obligations.Messages : Prop :=
  ∀ (snd : Bool) o s i, Executing s i → s.msgBad i o (if snd then .rd else .wr) = none →
    let d := s.msgScalar i o
    let act := i.act o.p != 0#64
    let n := if act then s.msgWords i o else 0
    let rot := if o.sp then affRot (readS (s.core i.core) i.pre o.base.toNat) else 0
    let dst := i.pre.scalarDest o.data
    ∃ t op, exec (if snd then .send o else .recv o) s = .next t ∧ (t.core i.core).ops = keptOps (s.core i.core) i ++ [op] ∧ Belongs s i op ∧
      op.flag = i.flagOf o.fsel ∧ Raises s t i (i.flagOf o.fsel) ∧ t.mem = s.mem ∧ waveRest (t.waveAt i) = waveRest (s.waveAt i) ∧
      op.kind = (if snd then .send dst (bitsNat d 0 10) (bitsNat d 16 6) n o.sp (s.msgAddr i o).toNat rot
        else .recv dst (bitsNat d 0 10) (bitsNat d 16 6) n o.sp (s.msgAddr i o).toNat rot
          (if act && !(s.isDet i.core) then (s.takeRq (bitsNat d 0 10) (bitsNat d 16 6) s.nextId).1 else none))

/-- R151, R154, R158, R187, R188: an access traps precisely with SPRANGE, WINRANGE or MISALIGN, in that order, by the conditions written out above; its
record holds the address of the first lane that meets the condition (assumption 40), and registers and predicates stand. An access of which no lane
meets one raises none of them. -/
def Obligations.AccessTraps : Prop :=
  (∀ ins f fs r s i p cause l, mform ins = some f → ins.fsel = some (fs, r) → Executing s i → (s.waveAt i).trap = none →
    i.flagTrap fs 2 = none → s.partOf i.core = some p → AccessFault s i p f cause l →
    ∃ t, exec ins s = .next t ∧ t.issue = none ∧
      TakesTrap s t i.core i.wave i.split { TrapInfo.at cause 2 i.sp.pc with addr := (laneAddress s i f l % 2 ^ 64).toNat }) ∧
  (∀ ins f fs r s i p, mform ins = some f → ins.fsel = some (fs, r) → i.flagTrap fs 2 = none → s.partOf i.core = some p →
    NoneOf (f.lanes i.pre i.sp) (OutOfScratchpad s i f) → NoneOf (f.lanes i.pre i.sp) (OutOfWindow s i p f) →
    NoneOf (f.lanes i.pre i.sp) (OffItsSize s i f) → s.memTrap i f fs = none)

/-- R134, R160: an access with active lanes whose pages do not hit the micro-TLB holds the bundle: no flag count rises, no register and no
memory changes, the lines of the core's L1 but those of .c go first where the bundle has passed a wait for tags, the lanes that hit are sent as requests of one operation without a flag and marked in the gather bitmap, and the split waits for its
walks; no other split, wave or core differs. -/
def Obligations.TranslationHold : Prop :=
  (∀ ins f fs r s i, mform ins = some f → ins.fsel = some (fs, r) → Executing s i → s.memTrap i f fs = none →
    s.missing i.core i.pre i.sp f ≠ 0#64 →
    let sent := State.lanesLeft i f &&& ~~~ (s.missing i.core i.pre i.sp f)
    let acq := waitsTags i.bundle.c
    let kept := (keptOps (s.core i.core) i).map (fun o : VarOp => if acq then { o with noFill := o.noFill || !o.kind.isC } else o)
    ∃ t h, exec ins s = .next t ∧ t.issue = none ∧ (t.splitAt i).hold = some h ∧ h.walks ≠ [] ∧ h.fetch = false ∧
      (t.splitAt i).gather = i.gather ||| sent ∧ (t.splitAt i).pc = (s.splitAt i).pc ∧ (t.splitAt i).win = (s.splitAt i).win ∧
      (t.waveAt i).flags = (s.waveAt i).flags ∧ waveRest (t.waveAt i) = waveRest (s.waveAt i) ∧
      coreRest (t.core i.core) = { coreRest (s.core i.core) with l1 := if acq then (s.core i.core).l1.filter (fun e => e.2.c) else (s.core i.core).l1 } ∧
      OtherCores s t i.core ∧ OtherWaves s t i.core i.wave ∧ OtherSplits s t i ∧
      { t.splitAt i with gather := 0#64, gatherOp := none, hold := none } = { s.splitAt i with gather := 0#64, gatherOp := none, hold := none } ∧
      t.mem = s.mem ∧ t.clusters = s.clusters ∧ t.parts = s.parts ∧ t.grids = s.grids ∧ t.pack = s.pack ∧ t.now = s.now ∧ t.inputs = s.inputs ∧
      (∀ k, accessKind s i ins f = some k →
        let reqs := (sentBefore (s.core i.core) i ++ s.accesses i f sent (accessData s i ins f)).map Req.shape
        (reqs = [] → (t.core i.core).ops = kept ∧ (t.splitAt i).gatherOp = none) ∧
        (reqs ≠ [] → ∃ op, (t.core i.core).ops = kept ++ [op] ∧ (t.splitAt i).gatherOp = some op.id ∧ Belongs s i op ∧
          op.flag = none ∧ op.kind = k ∧ op.reqs.map Req.shape = reqs)))

/-- R225, R233, R234, R239, R381 to R383: CPY, CPYQ, CPYO, CPYR and COLL with an active lane enter the cluster's copy queue behind the commands that stand
there, with the descriptor scalars read at issue, a COLL with its five; their produced tag clears, and they wait for the consumed tags that read clear. -/
def Obligations.CopyCommands : Prop :=
  ∀ ins o k n s i, xOf ins = some o → copyOf ins = some (k, n) → Executing s i → xTrap s i ins = none → i.act o.p ≠ 0#64 →
    ∃ t c, exec ins s = .next t ∧ (t.cluster (clusterOf i.core)).copies = (s.cluster (clusterOf i.core)).copies ++ [c] ∧
      c.id = s.nextId ∧ c.core = i.core ∧ c.wave = i.wave ∧ c.uid = i.pre.uid ∧ c.grid = i.pre.grid ∧ c.kind = k ∧
      c.words = s.descr i o.dbase n ∧ c.ptag = o.ptag.toNat ∧ c.ctags = CTags.list o.ct ∧ WaitsFor i o.ct c.waits ∧ c.started = false ∧ c.done = 0 ∧
      { t.cluster (clusterOf i.core) with copies := [] } = { s.cluster (clusterOf i.core) with copies := [] } ∧ XFrame s t i o

/-- R205, R208, R226: MXQ with an active lane enters one record behind the tasks of the cluster's queue, with its eight words and its
register operands as they stand, and binds its accumulator name at its first use; its produced tag clears. The values a register operand keeps from its issue serve the free choice of assumption 44. -/
def Obligations.MatrixTasks : Prop :=
  ∀ o s i, Executing s i → s.mxqBad i o = none → i.act o.p ≠ 0#64 →
    ∃ t x, exec (.mxq o) s = .next t ∧ (t.cluster (clusterOf i.core)).tasks = (s.cluster (clusterOf i.core)).tasks ++ [x] ∧
      x.id = s.nextId ∧ x.core = i.core ∧ x.wave = i.wave ∧ x.uid = i.pre.uid ∧ x.words = recWords (s.descr i o.dbase 8) o ∧ x.ptag = o.ptag.toNat ∧
      x.ctags = CTags.list o.ct ∧ WaitsFor i o.ct x.waits ∧ x.regs = s.regBlock i (s.descr i o.dbase 8) ∧ x.arr = none ∧ x.done = false ∧ x.flags = 0#6 ∧
      (t.cluster (clusterOf i.core)).bind = ((s.cluster (clusterOf i.core)).bindPair (tAcc (s.descr i o.dbase 8))).bind ∧
      (t.cluster (clusterOf i.core)).arrays = (s.cluster (clusterOf i.core)).arrays ∧ XFrame s t i o

/-- R227 to R229: MXRD, MXWR, MXZ, MXCRD and MXCWR with an active lane enter the side port. MXWR and MXCWR take their registers' values at
issue; MXRD and MXCRD fix the registers they will write, and what the window holds for those dies. -/
def Obligations.SidePortOperations : Prop :=
  ∀ ins o k n s i, xOf ins = some o → sideOf ins = some (k, n) → Executing s i → xTrap s i ins = none → i.act o.p ≠ 0#64 →
    let d := (s.descr i o.dbase 1).getD 0 0#64
    let regs := (List.range (sideRegs (s.pairedAt i.core) k n)).map (fun j => i.pre.vkey (bitsNat d.toNat 0 8 + j))
    ∃ t x, exec ins s = .next t ∧ (t.cluster (clusterOf i.core)).sides = (s.cluster (clusterOf i.core)).sides ++ [x] ∧
      x.id = s.nextId ∧ x.core = i.core ∧ x.wave = i.wave ∧ x.kind = k ∧ x.desc = d ∧ x.n = n ∧ x.ptag = o.ptag.toNat ∧
      x.ctags = CTags.list o.ct ∧ WaitsFor i o.ct x.waits ∧ x.started = false ∧
      (k = .wr ∨ k = .cwr → x.regs = [] ∧ x.data = regs.map (fun r => (List.range 64).map (fun l => rdV (s.core i.core) i.pre r l))) ∧
      (k = .rd ∨ k = .crd → x.regs = regs ∧ x.data = [] ∧
        ∀ r ∈ (t.splitAt i).win, ∀ j ∈ regs, r.dest = .v j none → r.scalar = false → r.near (s.splitAt i).isn = true → r.live = 0#64) ∧
      (t.cluster (clusterOf i.core)).arrays = (s.cluster (clusterOf i.core)).arrays ∧ XFrame s t i o

/-- R225: an X-slot operation without an active lane enqueues nothing in an engine: no copy, no task and no side-port operation
differs; its produced tag clears, and its own entry waits for its consumed tags; where it consumes none, its tag is due at issue + 1 outside DET, and
under DET 32 issue cycles at x1 after that. -/
def Obligations.EmptyEngineOperations : Prop :=
  ∀ ins o s i, xOf ins = some o → Executing s i → i.act o.p = 0#64 →
    ∃ t e, exec ins s = .next t ∧ (t.cluster (clusterOf i.core)).empties = (s.cluster (clusterOf i.core)).empties ++ [e] ∧
      e.core = i.core ∧ e.uid = i.pre.uid ∧ e.grid = i.pre.grid ∧ e.ptag = o.ptag.toNat ∧ e.ctags = CTags.list o.ct ∧ WaitsFor i o.ct e.waits ∧
      (o.ct ≠ .t0 → e.rem = none) ∧ (o.ct = .t0 → s.isDet i.core = false → e.rem = some 1) ∧
      (o.ct = .t0 → s.isDet i.core = true → e.rem = some (1 + (s.ratio i.core).scale 32)) ∧
      (t.cluster (clusterOf i.core)).copies = (s.cluster (clusterOf i.core)).copies ∧
      (t.cluster (clusterOf i.core)).tasks = (s.cluster (clusterOf i.core)).tasks ∧
      (t.cluster (clusterOf i.core)).sides = (s.cluster (clusterOf i.core)).sides ∧ XFrame s t i o

/-! ### The C slot -/

/-- R126, R128: BR, BRC, JMPI, RET and CALL go to their target, modulo 2 to the 64, when some lane is active and their condition holds;
otherwise the successor stands. CALL leaves the PC of the next bundle in its link scalar. Nothing else differs, but that a branch taken out of an
expansion leaves it and counts the MACRO, which is the model's choice (assumption 26). -/
def Obligations.Branches : Prop :=
  (∀ ins s i p c tgt, Executing s i → branchOf s i ins = some (p, c, tgt) →
    ∃ t, exec ins s = .next t ∧ (i.act p ≠ 0#64 ∧ c → Jumps s t i tgt) ∧ (¬ (i.act p ≠ 0#64 ∧ c) → t = s)) ∧
  (∀ p n ofs s i, Executing s i →
    ∃ t, exec (.call p n ofs) s = .next t ∧ ScalarFrame s t i ∧
      (i.act p = 0#64 → t = s) ∧
      (i.act p ≠ 0#64 → waveScalarless (t.waveAt i) = waveScalarless (leaving s i) ∧ SetsScalar s t i n.toNat (BitVec.ofNat 64 (i.sp.pc + 1)) ∧
        (t.splitAt i).pc = (((i.sp.pc : Int) + ofs.toInt) % 2 ^ 64).toNat ∧ (t.splitAt i).mask = (s.splitAt i).mask))

/-- R60, R61, R129: BRV. With no lane taken the split goes on; with no lane left it moves; otherwise, where a split is free, it
keeps the lanes left and a new split at the target takes the others, both with ISN 0; the window drains, and what is on its way lands for the
split that goes on; with four splits the taken lanes wait on the stack. That the new split's latches are copies is the model's choice (assumption 72),
and so is that a split which moves leaves an expansion and counts the MACRO (assumption 26). -/
def Obligations.VectorBranch : Prop :=
  ∀ p neg pc ofs join s i, Executing s i → ctlTrap s i (.brv p neg pc ofs join) = none →
    let tk := takenLanes i p neg pc
    let left := i.sp.mask &&& ~~~ tk
    let tgt : Nat := (((i.sp.pc : Int) + ofs.toInt) % 2 ^ 64).toNat
    ∃ t, exec (.brv p neg pc ofs join) s = .next t ∧
      (tk = 0#64 → t = s) ∧
      (tk ≠ 0#64 → left = 0#64 → Jumps s t i tgt) ∧
      (tk ≠ 0#64 → left ≠ 0#64 → 4 ≤ i.pre.splits.length → SplitOnly s t i ∧
        t.splitAt i = { s.splitAt i with mask := left, stack := ⟨tgt, tk, i.sp.pc + join.toNat, false⟩ :: (s.splitAt i).stack }) ∧
      (tk ≠ 0#64 → left ≠ 0#64 → i.pre.splits.length < 4 → NMap.get? (s.waveAt i).splits (s.waveAt i).freeSplit = none →
        (t.splitAt i).mask = left ∧ (t.splitAt i).pc = (s.splitAt i).pc ∧ (t.splitAt i).isn = 0 ∧
        (t.splitAt i).win = (onTheirWay (s.splitAt i).win).map (fun r : FRes => { r with old := true }) ∧
        (t.splitAt i).stack = (s.splitAt i).stack ∧
        ∃ sp, NMap.get? (t.waveAt i).splits (s.waveAt i).freeSplit = some sp ∧ sp.pc = tgt ∧ sp.mask = tk ∧ sp.isn = 0 ∧ sp.win = [] ∧
          sp.stack = [] ∧ sp.gap = (s.splitAt i).gap ∧ sp.fa = (s.splitAt i).fa ∧ sp.fb = (s.splitAt i).fb ∧
          (t.waveAt i).p = (s.waveAt i).p ∧ (t.waveAt i).rbase = (s.waveAt i).rbase)

/-- R130: LOOP. Its counter scalar is left as the rule counts it. Taken, it goes to the loop head, rotates the register base, and
with the stage window shifts p4 to p7 in the split's lanes; not taken, nothing shifts or rotates. That one taken inside an expansion leaves it and
counts the MACRO is the model's choice (assumption 26). -/
def Obligations.Loops : Prop :=
  ∀ n ofs sw rot s i, Executing s i →
    let r := loopCount (readS (s.core i.core) i.pre n.toNat).toNat sw
    ∃ t, exec (.loop n ofs sw rot) s = .next t ∧ ScalarFrame s t i ∧ SetsScalar s t i n.toNat (BitVec.ofNat 64 r.1) ∧
      { waveScalarless (t.waveAt i) with p := [], rbase := 0#5 } =
        { waveScalarless (if r.2 = none then s.waveAt i else leaving s i) with p := [], rbase := 0#5 } ∧
      (r.2 = none → (t.splitAt i).pc = (s.splitAt i).pc ∧ (t.waveAt i).rbase = (s.waveAt i).rbase ∧ (t.waveAt i).p = (s.waveAt i).p) ∧
      (∀ bit, r.2 = some bit → (t.splitAt i).pc = (((i.sp.pc : Int) + ofs.toInt) % 2 ^ 64).toNat ∧
        (t.waveAt i).rbase = (s.waveAt i).rbase - rot ∧
        (sw = false → (t.waveAt i).p = (s.waveAt i).p) ∧
        (sw = true → ∀ l k, l < 64 → 1 ≤ k → k < 8 → (RMap.rd (t.waveAt i).p k).getLsbD l =
          if 4 ≤ k ∧ i.sp.mask.getLsbD l = true then (if k = 4 then bit else (i.pre.pred (k - 1)).getLsbD l)
          else (RMap.rd (s.waveAt i).p k).getLsbD l))

/-- R132, R257, R258: NEST. An empty nest or slice goes past its body. Otherwise its nest state stands at its first point and every
induction scalar holds the point's coordinate before the body. That an empty one inside an expansion leaves it and counts the MACRO is the model's
choice (assumption 26). -/
def Obligations.Nests : Prop :=
  ∀ n si d1 n1 s i, Executing s i → ctlTrap s i (.nest n si d1 n1) = none → d1.toNat ≤ 5 → si.toNat + d1.toNat < 64 →
    let x := nestOf s i n d1
    ∃ t, exec (.nest n si d1 n1) s = .next t ∧ ScalarFrame s t i ∧
      waveScalarless (t.waveAt i) = waveScalarless (if x.2.2.2 ≤ x.2.2.1 then leaving s i else s.waveAt i) ∧
      (x.2.2.2 ≤ x.2.2.1 → (t.splitAt i).pc = (i.sp.pc + n1.toNat + 2) % 2 ^ 64 ∧ (t.waveAt i).s = (s.waveAt i).s) ∧
      (x.2.2.1 < x.2.2.2 → (t.splitAt i).pc = (s.splitAt i).pc ∧
        (t.splitAt i).nest = some ⟨i.sp.pc, n1.toNat + 1, si.toNat, x.1, x.2.1, x.2.2.1, x.2.2.2⟩ ∧
        ((∀ k, k < 64 → Unwritten s i k) → x.2.1.length = d1.toNat + 1 → x.2.1.Nodup → (∀ d ∈ x.2.1, d ≤ d1.toNat) →
          ∀ y ∈ nestPoint x.1 x.2.1 x.2.2.1, scalarAt t i (si.toNat + y.1) = BitVec.ofNat 64 y.2))

/-- R48, R65, R75, R76, R131, R133, R138, R141: NOP, LMARK and WFLG change nothing as they act; CLAUSE sets the clause numbers of its
split and nothing else. SHAPE sets the row logarithm and RNGIX the random index where some lane is active; YIELD marks its split
outside DET to wait at most 64 ic, and does nothing under DET. -/
def Obligations.ClausesAndShape : Prop :=
  (∀ ins s i, Executing s i → idleOp ins = true → exec ins s = .next s) ∧
  (∀ w fa fb s i, Executing s i → ∃ t, exec (.clause w fa fb) s = .next t ∧ SplitOnly s t i ∧
    t.splitAt i = { s.splitAt i with fa := fa.toNat, fb := fb.toNat }) ∧
  (∀ p r s i, Executing s i → ∃ t, exec (.shape p r) s = .next t ∧ OnlyCores s t ∧ OtherCores s t i.core ∧ OtherWaves s t i.core i.wave ∧
    t.waveAt i = (if i.act p = 0#64 then s.waveAt i else { s.waveAt i with rowlog := r })) ∧
  (∀ p n s i, Executing s i → ∃ t, exec (.rngix p n) s = .next t ∧ OnlyCores s t ∧ OtherCores s t i.core ∧ OtherWaves s t i.core i.wave ∧
    (t.waveAt i).rngidx = (if i.act p = 0#64 then (s.waveAt i).rngidx else (readS (s.core i.core) i.pre n.toNat).truncate 48) ∧
    { t.waveAt i with rngidx := 0#48, trap := none } = { s.waveAt i with rngidx := 0#48, trap := none }) ∧
  (∀ s i, Executing s i → ∃ t, exec .yield s = .next t ∧ SplitOnly s t i ∧ { t.splitAt i with yield := none } = { s.splitAt i with yield := none } ∧
    (s.isDet i.core = true → t = s) ∧ (s.isDet i.core = false → ∃ y, (t.splitAt i).yield = some y ∧ y.left = 64))

/-- R134, R135, R156, R233: a passed TWANY, TWALL or TFFR drops the L1 lines of its core but those of .c; TFFR leaves the index of the
lowest set tag of its mask; none changes a tag. TCLR clears the named tags and their error bits but those an operation set in
the same cycle. -/
def Obligations.TagOperations : Prop :=
  (∀ ins s i n z d, tagWait ins = some (n, z, d) → Executing s i → ctlTrap s i ins = none →
    ∃ t, exec ins s = .next t ∧ OnlyCores s t ∧ OtherCores s t i.core ∧ OtherWaves s t i.core i.wave ∧
      (t.core i.core).tags = (s.core i.core).tags ∧ (t.core i.core).tagerr = (s.core i.core).tagerr ∧
      (t.core i.core).l1 = (s.core i.core).l1.filter (fun e => e.2.c) ∧ waveScalarless (t.waveAt i) = waveScalarless (s.waveAt i) ∧
      (t.splitAt i).pc = (s.splitAt i).pc ∧ (d = none → t.waveAt i = s.waveAt i) ∧
      (∀ sd k, d = some sd → k < 64 → (i.tags &&& readS (s.core i.core) i.pre n.toNat).getLsbD k = true →
        (∀ j, j < k → (i.tags &&& readS (s.core i.core) i.pre n.toNat).getLsbD j = false) →
        SetsScalar s t i sd.toNat (BitVec.ofNat 64 k))) ∧
  (∀ p n s i, Executing s i → ∃ t, exec (.tclr p n) s = .next t ∧ t.waveAt i = s.waveAt i ∧ OnlyCores s t ∧ OtherCores s t i.core ∧
    { t.core i.core with tags := 0#64, tagerr := 0#64 } = { s.core i.core with tags := 0#64, tagerr := 0#64 } ∧
    (∀ k, k < 64 → let out := i.act p ≠ 0#64 ∧ (readS (s.core i.core) i.pre n.toNat).getLsbD k = true ∧ (s.core i.core).setNow.getLsbD k = false
      (out → (t.core i.core).tags.getLsbD k = false ∧ (t.core i.core).tagerr.getLsbD k = false) ∧
      (¬ out → (t.core i.core).tags.getLsbD k = (s.core i.core).tags.getLsbD k ∧ (t.core i.core).tagerr.getLsbD k = (s.core i.core).tagerr.getLsbD k)))

/-- R136, R256: BAR, GBAR and SBAR. The split waits for the phase that has not opened of the barrier its block, gang or set names;
outside DET no count runs, under DET a GBAR or SBAR opens 2,000 ic after the cluster's last arrival. -/
def Obligations.BarrierArrivals : Prop :=
  ∀ ins key s i g, barrierOf ins = some key → Executing s i → ctlTrap s i ins = none → s.grid? i.pre.grid = some g →
    ∃ t b g', exec ins s = .next t ∧ (t.splitAt i).bar = some b ∧ b.key = key ∧ b.phase = g.opened (barId key i.pre) ∧ b.opened = false ∧
      (g.det = false ∨ (∃ id, key = .bar id) → b.rel = none) ∧
      (g.det = true → (∀ id, key ≠ .bar id) → (s.waveAt i).trap = none → (s.waveAt i).grid = g.id → barId key (s.waveAt i) = barId key i.pre →
        b.rel = some ((s.ratio i.core).scale 2000)) ∧
      { t.splitAt i with bar := none } = { s.splitAt i with bar := none } ∧
      { t.waveAt i with splits := [], trap := none } = { s.waveAt i with splits := [], trap := none } ∧
      ((s.waveAt i).trap = none ∨ g.det = false → (t.waveAt i).trap = (s.waveAt i).trap) ∧
      t.grid? i.pre.grid = some g' ∧ (∃ x ∈ g'.bars, x.id = barId key i.pre) ∧ (∀ id, g'.opened id = g.opened id) ∧
      t.mem = s.mem ∧ t.parts = s.parts ∧ t.clusters = s.clusters ∧ t.pack = s.pack

/-- R54, R61, R136, R142, R256: EXIT takes its active lanes from the split, whose window drains. Lanes left go on at the successor; without
any, the split ends when its stack is empty, its results on their way landing in the bank, and otherwise goes on by its top entry (of an
entry that rejoins, the clause covers a stack of one); a wave without split has exited. A split that ends leaves the marks of YIELD (R141),
and under DET it counts as arrived: a GBAR or SBAR at which its wave has so arrived is counted from then. That a split which leaves an
expansion counts its MACRO is assumption 26. -/
def Obligations.Exits : Prop :=
  ∀ p s i, Executing s i → ∃ t, exec (.exit p) s = .next t ∧ (i.act p = 0#64 → t = s) ∧
    (i.act p ≠ 0#64 →
      let left := (s.splitAt i).mask &&& ~~~ (i.act p)
      let rest := onTheirWay (s.splitAt i).win
      let others := (s.core i.core).served (i.wave, i.split)
      (t.waveAt i).p = (s.waveAt i).p ∧ (t.waveAt i).flags = (s.waveAt i).flags ∧ t.mem = s.mem ∧
      (left ≠ 0#64 ∨ noFarCount s i → OtherCores s t i.core) ∧
      (left ≠ 0#64 → OtherWaves s t i.core i.wave ∧ OtherSplits s t i ∧ t.splitAt i = { s.splitAt i with mask := left, win := rest } ∧
        (t.waveAt i).drain = (s.waveAt i).drain ∧ (t.waveAt i).retc = (s.waveAt i).retc) ∧
      (left = 0#64 → (t.waveAt i).retc = (leaving s i).retc ∧ (t.waveAt i).rngidx = (leaving s i).rngidx) ∧
      (left = 0#64 → (s.splitAt i).stack = [] → NMap.get? (t.waveAt i).splits i.split = none ∧ (t.waveAt i).drain = (s.waveAt i).drain ++ rest ∧
        (noFarCount s i → (∀ x, x ≠ i.wave → t.wave? i.core x = NMap.get? others.waves x) ∧
          (∀ k, k ≠ i.split → NMap.get? (t.waveAt i).splits k = (NMap.get? others.waves i.wave).bind (fun w => NMap.get? w.splits k))) ∧
        (∀ g b, s.grid? (s.waveAt i).grid = some g → g.det = true → b ∈ g.bars → b.id.key.far = true → g.joins b.id (s.waveAt i) = true →
          (s.waveAt i).trap = none → (∀ e ∈ (s.waveAt i).splits, e.1 ≠ i.split → e.2.waits b.id.key b.phase = true) → countsFromNow s t i g b) ∧
        ((∀ k, k ≠ i.split → NMap.get? (s.waveAt i).splits k = none) → (t.waveAt i).exited = true)) ∧
      (∀ e r, left = 0#64 → (s.splitAt i).stack = e :: r → e.rejoin = false → e.mask ≠ 0#64 → e.pc ≠ e.join → OtherWaves s t i.core i.wave ∧ OtherSplits s t i ∧
        t.splitAt i = { s.splitAt i with mask := e.mask, pc := e.pc, mpc := none, stack := { e with mask := 0#64, rejoin := true } :: r, win := rest }) ∧
      (∀ e, left = 0#64 → (s.splitAt i).stack = [e] → e.rejoin = true → e.mask ≠ 0#64 → OtherWaves s t i.core i.wave ∧ OtherSplits s t i ∧
        t.splitAt i = { s.splitAt i with mask := e.mask, pc := e.join, mpc := none, stack := [], win := rest }))

/-- R126, R139, R140, R312: GETS leaves the register's value in its scalar; SETS of a writable register of the wave leaves the value's defined
bits in it, AFLG cleared where the value is 1; SETS of a command register writes it as Table 15.1 says. Without an active lane neither acts. The values of the
wave's and core's registers are those of Table 5.3, by number, those of the trap record those of Table 7.4 with the codes of Table 7.3, and those of the
command registers those of Table 15.1. What WSTAT [4] reads in the handler of a carried wave is the model's choice (assumption 73). -/
def Obligations.SystemRegisters : Prop :=
  (∀ p sd num s i, Executing s i → ctlTrap s i (.gets p sd num) = none →
    ∃ t, exec (.gets p sd num) s = .next t ∧ ScalarFrame s t i ∧ waveScalarless (t.waveAt i) = waveScalarless (s.waveAt i) ∧
      (i.act p = 0#64 → t = s) ∧ (i.act p ≠ 0#64 → SetsScalar s t i sd.toNat (s.sysRead i num.toNat))) ∧
  (∀ p num n s i, Executing s i → ctlTrap s i (.sets p num n) = none →
    ∃ t, exec (.sets p num n) s = .next t ∧ (i.act p = 0#64 → t = s) ∧
      (i.act p ≠ 0#64 → SysHolds s t i num.toNat (readS (s.core i.core) i.pre n.toNat)) ∧
      (num.toNat < 0x100 → OtherCores s t i.core ∧ OtherWaves s t i.core i.wave ∧ (t.waveAt i).splits = (s.waveAt i).splits ∧
        (t.waveAt i).v = (s.waveAt i).v ∧ (t.waveAt i).s = (s.waveAt i).s ∧ (t.waveAt i).p = (s.waveAt i).p ∧ (t.waveAt i).flags = (s.waveAt i).flags)) ∧
  (∀ (s : State) (i : Issue), s.sysRead i 0x000 = i.pre.aflg.zeroExtend 64 ∧ s.sysRead i 0x001 = i.pre.rowlog.zeroExtend 64 ∧
    s.sysRead i 0x002 = i.pre.rbase.zeroExtend 64 ∧ s.sysRead i 0x003 = i.pre.rngidx.zeroExtend 64 ∧ s.sysRead i 0x004 = i.pre.rngseed ∧
    s.sysRead i 0x005 = BitVec.ofNat 64 (i.sp.fa + 2 ^ 4 * i.sp.fb) ∧
    s.sysRead i 0x007 = (if i.pre.inTrap then 1#64 else BitVec.ofNat 64 (i.pre.splits.length + 2 ^ 4 * i.split)) ∧
    s.sysRead i 0x008 = (if i.pre.inTrap then BitVec.allOnes 64 else (i.pre.split i.split).mask) ∧
    s.sysRead i 0x013 = i.pre.stalled.zeroExtend 64 ∧ s.sysRead i 0x030 = wstatWord s i ∧
    (∀ c n, i.pre.trap = some c → 0x40 ≤ n → n ≤ 0x5F → s.sysRead i n = recordWord c i.pre.carried n) ∧
    (∀ p, s.partOf i.core = some p → ∀ e ∈ commandWords s p, s.sysRead i e.1 = e.2) ∧ s.sysRead i 0x012 = i.pre.retc ∧ s.sysRead i 0x020 = i.tags ∧ s.sysRead i 0x021 = i.tagerr ∧
    (∀ k, k < 12 → (s.sysRead i 0x006).getLsbD k = decide (i.pre.count k ≠ 0)) ∧
    (s.isDet i.core = true → s.sysRead i 0x010 = i.pre.retc * 1024#64 ∧ s.sysRead i 0x011 = i.pre.retc) ∧
    (s.isDet i.core = false → s.sysRead i 0x010 = BitVec.ofNat 64 s.pack.ns ∧ s.sysRead i 0x011 = BitVec.ofNat 64 (s.cluster (clusterOf i.core)).ic))

/-- R143, R314, R315, R320: LAUNCH. A record that cannot be read is refused with 0x0A and a bad one with the first code of its checks, in LSTAT with the
next sequence number; the codes are those of the first row of Table 15.4 that a record meets, and one that meets none is accepted. A good one joins the grids, with
code 0. NODE clears the scalars from s8 on and the predicates, with what is on its way to them, and leaves its number as the stream's node and in the save
header (R317, R328); at or after the slice's end it also begins a node save, with every core of the partition held and the header not valid yet. A misaligned
record counts as one that cannot be read by the model's reading (assumption 48), the sequence number counts from the model's start (assumption 19), the time from LAUNCH to the
placement is free below the model's bound (assumption 3), what NODE makes dead and what it leaves in the registers before a save is its reading (assumption 78), and so are the
points of the checks that assumptions 49 to 51 name. -/
def Obligations.LaunchAndNode : Prop :=
  (∀ n s i p, Executing s i → ctlTrap s i (.launch n) = none → s.partOf i.core = some p → NMap.get? s.parts p.num = some p →
    let va := (readS (s.core i.core) i.pre n.toNat).toNat
    let lstat := fun code => ((p.lstat &&& 0x30000#64) ||| BitVec.ofNat 64 (code + 2 ^ 32 * ((p.seqLaunch + 1) % 2 ^ 32))) ||| 0x10000#64
    ∃ t q, exec (.launch n) s = .next t ∧ NMap.get? t.parts p.num = some q ∧ q.seqLaunch = p.seqLaunch + 1 ∧
      (va % 8 ≠ 0 ∨ s.tableBytes p va 128 = none → q.lstat ||| 0x10000#64 = lstat 0x0A ∧ t.grids = s.grids ∧ t.mem = s.mem) ∧
      (∀ b, va % 8 = 0 → s.tableBytes p va 128 = some b →
        match s.checkLaunch p (isCmdCore i.core) (Grid.ofRecord s.nextId p.num (p.seqLaunch + 1) ((List.range 16).map (fun k => BitVec.ofNat 64 (imgNat b (8 * k) 8)))) with
        | .error code => q.lstat ||| 0x10000#64 = lstat code ∧ t.grids = s.grids
        | .ok g => q.lstat ||| 0x10000#64 = lstat 0 ∧ t.mem = s.mem ∧ t.cores = s.cores ∧ t.grids = s.grids ++ [{ g with net := s.pack.peers.map (fun e => (e.1, e.2.base)) }] ∧
            ∃ dt, dt < launchTicks ∧ (s.now + dt, Instr.blockPlacement g.id) ∈ t.inputs)) ∧
  (∀ n s i p, Executing s i → ctlTrap s i (.node n) = none → s.partOf i.core = some p → NMap.get? s.parts p.num = some p →
    (p.tend = none ∨ ∃ e, p.tend = some e ∧ s.timeNs < e) →
    ∃ t q, exec (.node n) s = .next t ∧ NMap.get? t.parts p.num = some q ∧ q = { p with node := n.toNat } ∧
      (∀ k, RMap.rd (t.waveAt i).s k = if k < 8 then RMap.rd (s.waveAt i).s k else 0#64) ∧ (t.waveAt i).p = [] ∧
      t.splitAt i = { s.splitAt i with win := (s.splitAt i).win.map FRes.nodeKill } ∧ (t.waveAt i).drain = (s.waveAt i).drain.map FRes.nodeKill ∧
      { t.waveAt i with s := [], p := [], splits := [], drain := [] } = { s.waveAt i with s := [], p := [], splits := [], drain := [] } ∧
      OtherSplits s t i ∧ OtherCores s t i.core ∧ OtherWaves s t i.core i.wave ∧ t.grids = s.grids ∧ t.clusters = s.clusters ∧
      t.mem = putImage s.mem p (p.ctxbase.toNat + 0x50) (natLE 8 n.toNat)) ∧
  (∀ n s i p e, Executing s i → ctlTrap s i (.node n) = none → s.partOf i.core = some p → NMap.get? s.parts p.num = some p → p.tend = some e → e ≤ s.timeNs →
    ∃ t q h, exec (.node n) s = .next t ∧ NMap.get? t.parts p.num = some q ∧
      q = { p with node := n.toNat, saving := 1, saveSeq := p.saveSeq + 1, saveRef := (NMap.getD s.pack.banks EBank.zero p.num).seq } ∧
      (∀ c ∈ p.everyCore, NMap.get? s.cores c ≠ none → (t.core c).hold = true) ∧ t.grids = s.grids ∧
      (∀ k, 8 ≤ k → RMap.rd (t.waveAt i).s k = 0#64) ∧ (t.waveAt i).p = [] ∧ (t.splitAt i).win = [] ∧ (t.waveAt i).drain = [] ∧
      (t.waveAt i).flags = (s.waveAt i).flags ∧ (t.splitAt i).pc = (s.splitAt i).pc ∧
      t.mem = putImage (putImage s.mem p (p.ctxbase.toNat + 0x50) (natLE 8 n.toNat)) q p.ctxbase.toNat h ∧ (h.getD 0 0#8).getLsbD 0 = false) ∧
  (∀ s p cmd id seq (r : List W64), r.length = 16 →
    (∀ code, s.checkLaunch p cmd (Grid.ofRecord id p.num seq r) = .error code ↔ launchRow s p cmd r code ∧ ∀ c, c < code → ¬ launchRow s p cmd r c) ∧
    ((∀ code, ¬ launchRow s p cmd r code) → ∃ g, s.checkLaunch p cmd (Grid.ofRecord id p.num seq r) = .ok g ∧
      g = { Grid.ofRecord id p.num seq r with nest := g.nest, sets := g.sets, queues := g.queues, place := g.place, cores := g.cores }))

/-- R126, R144, R175, R188: the C slot's traps are precise and carry their cause, slot 4 and the bundle's PC; BKPT with an active lane is one,
and without it does nothing. TRAP n with an active lane leaves its argument for the split's boundary, and its bundle goes on; without one
it does nothing. The order of PRIV and ILLOP at a SETS of a trap register is the model's reading (assumption 63). -/
def Obligations.ControlTraps : Prop :=
  (∀ ins c s i, Executing s i → (s.waveAt i).trap = none → ctlTrap s i ins = some c →
    ∃ t, exec ins s = .next t ∧ t.issue = none ∧ TakesTrap s t i.core i.wave i.split (TrapInfo.at c 4 i.sp.pc)) ∧
  (∀ p s i, Executing s i → i.act p = 0#64 → exec (.bkpt p) s = .next s) ∧
  (∀ p n s i, Executing s i → ∃ t, exec (.trap p n) s = .next t ∧ SplitOnly s t i ∧
    t.splitAt i = (if i.act p = 0#64 then s.splitAt i else { s.splitAt i with trapn := some n.toNat }))

/-- R145, R190, R191: ERET in trap mode. The trapped state stands again: the splits and results in flight of the record, and the random index
it holds. The latches come from the context slot, whose fields the model keeps beside it where the manual does not place them (assumption 10).
Replay issues the bundle again, after a BKPT once without its C slot; resume goes to the address in TRESUME; end ends every lane. What every split
of the handler has on its way drains. On a DET core that a save holds, once no wave of it is in trap mode, the cycle the trap gave back passes again,
which is the model's reading (assumption 29). -/
def Obligations.TrapReturn : Prop :=
  ∀ ins k s i c, Executing s i → actionOf ins = some k → i.pre.inTrap = true → i.pre.action ≠ 3 → (s.waveAt i).trap = some c →
    let back := s.reloadSplits i.core ((s.waveAt i).slotBase (s.isDet i.core)) c
    let held := heldAfterTrap s i
    let again := fun (sp : Split) => if held then sp.retick else sp
    ∃ t, exec ins s = .next t ∧ (t.waveAt i).trap = none ∧ (t.waveAt i).rngidx = c.rngidx ∧ t.mem = s.mem ∧ t.parts = s.parts ∧ t.grids = s.grids ∧
      (t.waveAt i).p = (s.waveAt i).p ∧ (t.waveAt i).flags = (s.waveAt i).flags ∧ (t.waveAt i).rngseed = (s.waveAt i).rngseed ∧
      (∀ n, (NMap.get? back n).map frozenRest = (NMap.get? c.splits n).map frozenRest) ∧
      (k ≠ 2 →
        (NMap.sorted (s.waveAt i).splits = true → (t.waveAt i).drain =
          (c.drain ++ (s.waveAt i).drain ++ (s.waveAt i).splits.flatMap (fun e => onTheirWay e.2.win)).map (if held then FRes.tick else id)) ∧
        (∀ n, n ≠ c.split → NMap.get? (t.waveAt i).splits n = (NMap.get? back n).map again) ∧
        ∀ sp, NMap.get? back c.split = some sp → ∃ u, NMap.get? (t.waveAt i).splits c.split = some u ∧
          (k = 0 → u = { again sp with bkptOnce := sp.bkptOnce || c.cause == .bkpt }) ∧
          (k = 1 → c.nat = none →
            u = { again sp with
              pc := bitsNat c.resume.toNat 2 48, nat := none, gap := (if c.retired then (again sp).gap else 0), mpc := none, bkptOnce := false,
              gather := 0#64, gatherOp := none })) ∧
      (k = 2 → (t.waveAt i).splits = [] ∧ (t.waveAt i).exited = true)

/-- R146: MACRO goes into its expansion at the first op; an empty one is passed and retires. The expansion is the control store's list, where it holds no
MACRO itself; how a stored expansion takes its fields is the model's choice (assumption 26). -/
def Obligations.Macros : Prop :=
  ∀ p n fields s i, Executing s i → ∃ t, exec (.macroOp p n fields) s = .next t ∧ OnlyCores s t ∧ OtherCores s t i.core ∧ OtherWaves s t i.core i.wave ∧
    OtherSplits s t i ∧
    (∀ l, NMap.get? s.pack.cstore n.toNat = some l → (∀ e ∈ l, ∀ q k g, decodeWord (expand e fields.toNat) ≠ some (.macroOp q k g)) →
      s.expansion 65 [] n.toNat fields.toNat = l.map (fun e => expand e fields.toNat)) ∧
    (s.expansion 65 [] n.toNat fields.toNat ≠ [] → t.splitAt i = { s.splitAt i with mpc := some 0 } ∧
      { t.waveAt i with splits := [] } = { s.waveAt i with splits := [] }) ∧
    (s.expansion 65 [] n.toNat fields.toNat = [] → t.splitAt i = { s.splitAt i with pc := ((s.splitAt i).pc + 1) % 2 ^ 64 } ∧
      (t.waveAt i).retc = (s.waveAt i).retc + 1)

/-! ### Events of the front end -/

/-- R51, R66, R160, R175 to R178, R187: a core's issue selects a ready split and stages its bundle: the split's ISN, gap and PC move on, RETC counts it outside
trap mode; native and carried alike. The wave's splits merge as its bundle is selected, and the split that holds the selected lanes issues (R62). A bundle whose
walks have returned goes on before the core selects. When splits merge, the order of traps and holds within the cycle, and what a held bundle tests again,
are the model's readings (assumptions 12, 24 and 25). -/
def Obligations.BundleIssue : Prop :=
  (∀ (carried : Bool) core s w k b, validCore core = true → s.completing core = none →
    let s' := s.boundary core
    s'.pick core = some (w, k) → (s'.wave core w).carriedNow = carried →
    let m := s'.mergedAt core w k
    let n := m.2
    m.1.readyAt core (w, n) = true →
    let s2 := m.1.updCore core (fun c => c.served (w, n))
    s2.fetch core w n = .ok b →
    let s1 := s2.exitWin core w n
    let i := s1.mkIssue core w n b
    (∃ wv sp, NMap.get? (s1.core core).waves w = some wv ∧ NMap.get? wv.splits n = some sp) →
    s1.issueTrap i = none → s1.issueHeld i = false →
    ∃ t, exec (if carried then .carriedOpIssue core else .bundleIssue core) s = .next t ∧ Stages s1 t core w n i) ∧
  (∀ (carried : Bool) core s w n b, validCore core = true → s.completing core = some (w, n) → (s.wave core w).carriedNow = carried →
    let s2 := (s.unhold core w n).updCore core (fun c => c.served (w, n))
    s2.fetch core w n = .ok b →
    let s1 := s2.exitWin core w n
    let i := s1.mkIssue core w n b
    (∃ wv sp, NMap.get? (s1.core core).waves w = some wv ∧ NMap.get? wv.splits n = some sp) →
    s1.issueTrap i = none → s1.issueHeld i = false →
    ∃ t, exec (if carried then .carriedOpIssue core else .bundleIssue core) s = .next t ∧ Stages s1 t core w n i)

/-- R31, R44, R51, R53, R54, R160, R161, R188, R189, R295, R331, R333: the handler of a trapped wave starts at the trap vector with one split of all lanes; a
result arrives in its latch or predicate with its flags, and in its register when it has left its window; lanes of a scratchpad load with an error in their
data land nowhere and defer a MEMERR; a returning fetch walk fills the TLBs and frees its split, or traps with XLATE; a translated block joins the code cache. The result of a split that has ended lands in no latch by the model's reading (assumption 38), and the code cache's list, with the ops of a block as
its bundles, is its own form (assumption 17). -/
def Obligations.FrontEndEvents : Prop :=
  (∀ core wave s wv c p, s.wave? core wave = some wv → wv.trap = some c → c.started = false → c.startRem = 0 →
    (∀ e ∈ (s.core core).waves, e.2.trap.isSome = true → e = (wave, wv)) → s.partOf core = some p →
    ∃ t, exec (.handlerStart core wave) s = .next t ∧ t.wave? core wave = some { wv with
      trap := some { c with started := true }, splits := [(0, Split.start 0 (bitsNat p.trapvec.toNat 0 48) (BitVec.allOnes 64) 0)] } ∧
      (t.wave core wave).inTrap = true) ∧
  (∀ core wave id s wv n sp r, s.wave? core wave = some wv → wv.splits.find? (fun e => e.2.win.any (dueResult id)) = some (n, sp) →
    NMap.get? wv.splits n = some sp → sp.win.find? (dueResult id) = some r →
    ∃ t, exec (.resultArrival core wave ⟨id, 0#64⟩) s = .next t ∧ (t.wave core wave).aflg = wv.aflg ||| r.flags ∧ t.mem = s.mem ∧
      (r.out = false → (t.wave core wave).v = wv.v ∧ (t.wave core wave).s = wv.s) ∧
      (r.out = true → FreeDest s core wave r.dest r.id →
        (∀ k l, r.dest = .v k none → l < 64 → r.live.getLsbD l = true → rdV (t.core core) (t.wave core wave) k l = (RMap.rd r.vals l).truncate 32) ∧
        (∀ k, r.dest = .s k → r.live ≠ 0#64 → rdS (t.core core) (t.wave core wave) k = RMap.rd r.vals 0)) ∧
      (∀ k, r.dest = .p k → k ≠ 0 → ∀ l, l < 64 → (RMap.rd (t.wave core wave).p k).getLsbD l =
        if r.mask.getLsbD l then (RMap.rd r.vals l).getLsbD 0 else (RMap.rd wv.p k).getLsbD l) ∧
      ((∃ a b, r.dest = .v a b) ∨ (∃ a, r.dest = .s a) → (t.wave core wave).p = wv.p ∧
        ((t.wave core wave).split n).latV = (if r.mem then sp.latV else landLatch sp.latV r) ∧
        ((t.wave core wave).split n).latM = (if r.mem then landLatch sp.latM r else sp.latM))) ∧
  (∀ core wave id s wv r, s.wave? core wave = some wv → wv.splits.find? (fun e => e.2.win.any (dueResult id)) = none →
    wv.drain.find? (dueResult id) = some r → FreeDest s core wave r.dest r.id →
    ∃ t, exec (.resultArrival core wave ⟨id, 0#64⟩) s = .next t ∧ (∀ x ∈ (t.wave core wave).drain, x.id ≠ id) ∧ (t.wave core wave).aflg = wv.aflg ||| r.flags ∧
      (∀ k l, r.dest = .v k none → l < 64 → r.live.getLsbD l = true → rdV (t.core core) (t.wave core wave) k l = (RMap.rd r.vals l).truncate 32) ∧
      (∀ k, r.dest = .s k → r.live ≠ 0#64 → rdS (t.core core) (t.wave core wave) k = RMap.rd r.vals 0)) ∧
  (∀ core wave err s wv n sp r, s.wave? core wave = some wv → wv.splits = [(n, sp)] → sp.win = [r] → r.mem = true → r.rem = 0 → r.arrived = false → r.out = false →
    r.scalar = false → (∃ a b, r.dest = .v a b) → r.mask &&& err ≠ 0#64 → wv.drain = [] →
    ∃ t, exec (.resultArrival core wave ⟨r.id, err⟩) s = .next t ∧ t.mem = s.mem ∧ (t.wave core wave).v = wv.v ∧
      ((t.wave core wave).split n).latM = landLatch sp.latM { r with mask := r.mask &&& ~~~ err } ∧
      DefersIn sp.deferred ((t.wave core wave).split n).deferred ⟨false, r.pc, NMap.getD r.vas 0 ((lanesOf (r.mask &&& err)).headD 0), r.mask &&& err, 0, r.id⟩) ∧
  (∀ core wave split s wv sp h k p, s.wave? core wave = some wv → NMap.get? wv.splits split = some sp → sp.hold = some h → h.fetch = true →
    s.partOf core = some p → h.walks.find? (fun w => w.rem == 0) = some k →
    ∃ t, exec (.translationWalkReturn core wave split) s = .next t ∧
      (∀ e, tlbXlat (s.cluster (clusterOf core)).tlb p k.va .fetch = some e → ((t.wave core wave).split split).hold = none ∧ e ∈ (t.core core).utlb ∧ t.mem = s.mem ∧
        ((t.wave core wave).split split).pc = sp.pc) ∧
      (∀ pa e, tlbXlat (s.cluster (clusterOf core)).tlb p k.va .fetch = none → translate s.mem p k.va .fetch = .ok pa e →
        ((t.wave core wave).split split).hold = none ∧ e ∈ (t.core core).utlb ∧ e ∈ (t.cluster (clusterOf core)).tlb ∧
        t.mem = (s.noteWalk core p k.va).mem ∧ ((t.wave core wave).split split).pc = sp.pc) ∧
      (∀ kind, tlbXlat (s.cluster (clusterOf core)).tlb p k.va .fetch = none → translate s.mem p k.va .fetch = .fault kind → wv.trap = none → NMap.sorted wv.splits = true →
        TakesTrap s t core wave split { TrapInfo.at .xlate 0 sp.pc with addr := k.va, info := kind, lanes := sp.gather })) ∧
  (∀ part pc s p, partAt s part p →
    let used := 32 * (p.transl.map (·.len)).sum
    let len := s.blockLen p 4096 pc
    len ≠ 0 → used + 32 * len ≤ bitsNat p.tcache.toNat 48 16 * 2 ^ 20 → p.transl.any (fun x => x.bpc == pc) = false →
    ∃ t, exec (.translateBlock part pc) s = .next t ∧
      partAt t part { p with transl := p.transl ++ [NatRun.mk pc (bitsNat p.tcache.toNat 16 32 * 65536 + used) len pc] } ∧ t.cores = s.cores ∧ t.grids = s.grids)

/-! ### Completions -/

/-- R103, R155 to R157, R161, R164, R165, R187, R296, R297: an operation whose accesses are due performs as one event and completes. A load of home memory leaves
its value in its lane, one of .cd or .cs the value of the L1 copy if there is one, else it fills the L1; a store leaves home memory as the store of its data does, several
lanes in lane order; an atomic does both, with the old value. Accesses of the scratchpad leave what they read at their issue. FDIV leaves its
quotients and flags. An access that fails defers a MEMERR. -/
def Obligations.AccessCompletions : Prop :=
  (∀ core s o d size c cop r pa x, InFlight s core o → o.kind = .load d size c cop → o.reqs = [r] → o.rem = 0 → reqDue (s.core core).ops o r = true →
    r.loc = .pa pa → r.err = false → cop = .cg ∨ cop = .cn → isRemote pa = false → s.mem.load pa size = some x → r.lane < 64 → FreeDest s core o.wave d o.id →
    ∃ t, exec (.variableLoadCompletion core o.id 0#64) s = .next t ∧ Retired s t core o ∧ Holds t core o.wave d r.lane x) ∧
  (∀ core s o size cop r pa m, InFlight s core o → o.kind = .store size cop → o.reqs = [r] → o.rem = 0 → reqDue (s.core core).ops o r = true →
    r.loc = .pa pa → isRemote pa = false → s.mem.store pa size r.data = some m →
    ∃ t, exec (.storePerform core o.id 0#64) s = .next t ∧ Retired s t core o ∧ t.mem = m.noteWrite pa cop ∧
      (t.wave core o.wave).v = (s.wave core o.wave).v ∧ (t.wave core o.wave).s = (s.wave core o.wave).s ∧ (t.wave core o.wave).p = (s.wave core o.wave).p) ∧
  (∀ core s o d op ty ord r pa old m, InFlight s core o → o.kind = .atom d op ty ord → o.reqs = [r] → o.rem = 0 → reqDue (s.core core).ops o r = true →
    r.loc = .pa pa → r.err = false → isRemote pa = false → r.lane < 64 → FreeDest s core o.wave d o.id →
    s.mem.load pa (if ty.wide then 8 else 4) = some old → s.mem.store pa (if ty.wide then 8 else 4) (atomNew op ty old r.data r.data2) = some m →
    ∃ t, exec (.atomicPerform core o.id 0#64) s = .next t ∧ Retired s t core o ∧ t.mem = m.noteWrite pa .cd ∧ Holds t core o.wave d r.lane old) ∧
  (∀ core s o d vals mask fl, InFlight s core o → o.kind = .fdiv d vals mask fl → o.reqs = [] → o.rem = 0 → FreeDest s core o.wave d o.id →
    ∃ t, exec (.fdivCompletion core o.id) s = .next t ∧ Retired s t core o ∧ (t.wave core o.wave).aflg = (s.wave core o.wave).aflg ||| fl ∧ t.mem = s.mem ∧
      ∀ l, l < 64 → mask.getLsbD l = true → Holds t core o.wave d l (RMap.rd vals l).toNat) ∧
  (∀ core s o d size c cop r, InFlight s core o → o.kind = .load d size c cop → o.reqs = [r] → o.rem = 0 → r.done = false → r.err = false → o.handler = false →
    (s.wave core o.wave).trap = none → r.lane < 64 → (∃ sp, NMap.get? (s.wave core o.wave).splits o.split = some sp) →
    ∃ t, exec (.variableLoadCompletion core o.id (laneBit r.lane)) s = .next t ∧ Retired s t core o ∧ t.mem = s.mem ∧
      DefersIn ((s.wave core o.wave).split o.split).deferred ((t.wave core o.wave).split o.split).deferred ⟨false, o.pc, r.va, laneBit r.lane, 0, o.id⟩ ∧
      (t.wave core o.wave).v = (s.wave core o.wave).v ∧ (t.wave core o.wave).s = (s.wave core o.wave).s) ∧
  (∀ core s o d size c cop r pa, InFlight s core o → o.kind = .load d size c cop → o.reqs = [r] → o.rem = 0 → reqDue (s.core core).ops o r = true →
    r.loc = .pa pa → r.err = false → cop = .cd ∨ cop = .cs → pa < cisternBase ∨ cisternBase + 0x400000 ≤ pa → r.lane < 64 → FreeDest s core o.wave d o.id →
    ∃ t, exec (.variableLoadCompletion core o.id 0#64) s = .next t ∧ Retired s t core o ∧
      (∀ l, (s.core core).l1Hit (pa / 256) c = some l → Holds t core o.wave d r.lane (leNat ((l.data.drop (pa % 256)).take size)) ∧ t.mem = s.mem) ∧
      (∀ x : List Byte, isRemote pa = false → (s.core core).l1Hit (pa / 256) c = none → x.length = 256 →
        (∀ j, j < 256 → s.mem.rd (pa / 256 * 256 + j) = x[j]?) → Holds t core o.wave d r.lane (leNat ((x.drop (pa % 256)).take size)) ∧
        (o.noFill = false → ∃ l, (t.core core).l1Hit (pa / 256) c = some l ∧ l.data = x))) ∧
  (∀ core s o d size c cop (x : Nat → Nat), InFlight s core o → o.kind = .load d size c cop → cop = .cg ∨ cop = .cn → AllDue s core o →
    (∀ e ∈ s.mem.l2, isCarrier (e.1 * 256) = false) → (∀ r ∈ o.reqs, ∀ pa, r.loc = .pa pa → s.mem.load pa size = some (x r.lane)) → FreeDest s core o.wave d o.id →
    ∃ t, exec (.variableLoadCompletion core o.id 0#64) s = .next t ∧ Retired s t core o ∧ ∀ r ∈ o.reqs, Holds t core o.wave d r.lane (x r.lane)) ∧
  (∀ core s o size cop m, InFlight s core o → o.kind = .store size cop → AllDue s core o → (s.core core).watch = [] → storeAll size cop o.reqs s.mem = some m →
    ∃ t, exec (.storePerform core o.id 0#64) s = .next t ∧ Retired s t core o ∧ t.mem = m) ∧
  (∀ core s o d op ty ord l m, InFlight s core o → o.kind = .atom d op ty ord → AllDue s core o → (s.core core).watch = [] → FreeDest s core o.wave d o.id →
    atomAll op ty o.reqs s.mem = some (l, m) →
    ∃ t, exec (.atomicPerform core o.id 0#64) s = .next t ∧ Retired s t core o ∧ t.mem = m ∧
      ∀ k r, o.reqs[k]? = some r → Holds t core o.wave d r.lane (l.getD k 0)) ∧
  (∀ core s o d, InFlight s core o → (∃ size c cop, o.kind = .load d size c cop) ∨ (∃ op ty ord, o.kind = .atom d op ty ord) → o.rem = 0 → (o.reqs.map (·.lane)).Nodup →
    (∀ r ∈ o.reqs, r.done = true ∧ r.err = false ∧ r.lane < 64) → FreeDest s core o.wave d o.id →
    ∃ t, exec (.variableLoadCompletion core o.id 0#64) s = .next t ∧ Retired s t core o ∧ t.mem = s.mem ∧ ∀ r ∈ o.reqs, Holds t core o.wave d r.lane r.val)

/-- R50, R156, R168, R169, R171 to R174, R250, R252, R378: fences, flushes, prefetches and drains retire, each with its effect: an acquire drops the L1 lines
but those of .c, a range in L2 sets its tag. WAITA ends with a value other than its comparand, or at its deadline; an equal one before it goes on waiting.
LDSET leaves the combination of its members' words. A FLUSH whose table entry cannot be read defers a MEMERR. When markers of a DRAIN.rel leave, and what a plain
DRAIN waits for, is the model's choice (assumption 70). The markers of a DRAIN.rel leave with the counts of the writes before them. -/
def Obligations.OperationCompletions : Prop :=
  (∀ core s o ev, InFlight s core o → plainEnd s core o = some ev → ∃ t, exec ev s = .next t ∧ Retired s t core o ∧
    (t.wave core o.wave).v = (s.wave core o.wave).v ∧ (t.wave core o.wave).s = (s.wave core o.wave).s ∧ (t.wave core o.wave).p = (s.wave core o.wave).p ∧
    (∀ sc k, o.kind = .fence sc k → t.mem = s.mem ∧ (t.core core).l1 = (if k = .rel then (s.core core).l1 else (s.core core).l1.filter (fun e => e.2.c))) ∧
    (o.kind = .acqPart → t.mem = s.mem ∧ (t.core core).l1 = (s.core core).l1.filter (fun e => e.2.c)) ∧
    (∀ tag secs, o.kind = .bpref tag secs → tag < 64 → (t.core core).tags.getLsbD tag = true ∧ (t.core core).tagerr = (s.core core).tagerr) ∧
    (∀ secs, o.kind = .flush false secs → (∀ k ∈ secs, isCarrier (k * 256) = false) → t.mem.home = s.mem.home ∧
      ∀ k ∈ secs, ∀ l, NMap.get? s.mem.l2 k = some l → l.dirty = true → ∀ j, j < 256 → Memory.rd t.mem.hbm (k * 256 + j) = Memory.rd s.mem.home (k * 256 + j)) ∧
    (o.kind = .pref ∨ o.kind = .empty → t.mem = s.mem ∧ (t.core core).tags = (s.core core).tags) ∧
    (∀ rel ds, o.kind = .drain rel ds → t.mem = s.mem ∧ (rel = false ∨ o.padded = false → t.pack = s.pack) ∧ (rel = true → o.padded = true →
      t.pack.out = s.pack.out ++ ds.map (fun q => OutMsg.marker q (s.peer q).sentW)))) ∧
  (∀ core s o staging secs r, InFlight s core o → o.kind = .flush staging secs → o.reqs = [r] → r.err = true → r.lane < 64 → o.handler = false →
    (s.wave core o.wave).trap = none → (∃ sp, NMap.get? (s.wave core o.wave).splits o.split = some sp) →
    ∃ t, exec (.flushCompletion core o.id) s = .next t ∧ Retired s t core o ∧
      DefersIn ((s.wave core o.wave).split o.split).deferred ((t.wave core o.wave).split o.split).deferred ⟨false, o.pc, r.va, laneBit r.lane, 0, o.id⟩) ∧
  (∀ core s o ds r, InFlight s core o → o.kind = .drain true ds → o.padded = false → o.reqs = [r] → r.done = false → r.rem = 0 → s.writesTo core o ds false = false →
    ∃ t x, exec (.drainCompletion core o.id) s = .next t ∧ t.op? core o.id = some x ∧ x.kind = o.kind ∧ x.reqs = [{ r with done := true }] ∧
      t.pack.out = s.pack.out ++ ds.map (fun q => OutMsg.marker q (s.peer q).sentW) ∧ t.mem = s.mem ∧ (t.core core).waves = (s.core core).waves) ∧
  (∀ core s o d cmp size dl every r v, InFlight s core o → o.kind = .waita d cmp size dl every → o.reqs = [r] → r.err = false → r.data2 = 0 → waitHeld (s.core core).ops o = false → s.waitRead core r.loc size = some v →
    v ≠ cmp → r.lane = 0 → FreeDest s core o.wave d o.id →
    ∃ t u, exec (.waitaWake core ⟨o.id, false⟩) s = .next t ∧ Retired s t core o ∧ Holds t core o.wave d 0 v ∧
      exec (.waitaTimeout core ⟨o.id, false⟩) s = .next u ∧ Retired s u core o ∧ Holds u core o.wave d 0 v ∧ (u.wave core o.wave).stalled = (s.wave core o.wave).stalled) ∧
  (∀ core s o d cmp size dl every r, InFlight s core o → o.kind = .waita d cmp size dl every → o.reqs = [r] → r.data2 = 0 → waitHeld (s.core core).ops o = false →
    s.waitRead core r.loc size = some cmp →
    ∃ t u, exec (.waitaWake core ⟨o.id, false⟩) s = .next t ∧ (∃ x, t.op? core o.id = some x ∧ x.kind = o.kind) ∧ (t.core core).watch = (s.core core).watch ∧
      (∀ n, (t.wave core o.wave).count n = (s.wave core o.wave).count n) ∧
      exec (.waitaTimeout core ⟨o.id, false⟩) s = .next u ∧ Retired s u core o ∧
      (u.wave core o.wave).stalled = (if (s.wave core o.wave).stalled = BitVec.allOnes 32 then BitVec.allOnes 32 else (s.wave core o.wave).stalled + 1)) ∧
  (∀ core s o d cmp size every r v a, InFlight s core o → o.kind = .waita d cmp size none every → o.reqs = [r] → r.loc = .pa a → r.lane = 0 → r.err = false →
    s.waitRead core r.loc size = some v → FreeDest s core o.wave d o.id →
    ∃ t, exec (.waitaDetReread core ⟨o.id, false⟩) s = .next t ∧ (v ≠ cmp → Retired s t core o ∧ Holds t core o.wave d 0 v) ∧
      (v = cmp → ∃ x, t.op? core o.id = some x ∧ x.kind = o.kind ∧ x.rem = every)) ∧
  (∀ core s o k set a rot op mask retc, InFlight s core o → o.kind = .ldset (.v k none) set a rot op mask retc → mask ≠ 0#64 → o.rem = 0 → o.fail = 0 →
    o.reqs.all (·.done) = true → FreeDest s core o.wave (.v k none) o.id →
    ∃ t, exec (.ldsetCompletion core o.id 0) s = .next t ∧ Retired s t core o ∧
      ∀ l, l < 64 → mask.getLsbD l = true → rdV (t.core core) (t.wave core o.wave) k l = BitVec.ofNat 32
        (setTree op (o.reqs.map (fun r => if r.data2 = 1 then setIdent op else r.val / 2 ^ (32 * l) % 2 ^ 32))).1)

/-- R379, R380, R386: a SEND to a peer that cannot be reached ends with the unreachable status; else its words leave, with the next sequence number of its channel
since its launch began, those for the own ID into the own queue, where a full one holds the core under DET. A RECV with its message leaves the message's length and
number as status; under DET it takes the oldest one at its padded ic, or holds the core for 10 ms of the time base at most, whose test comes again where the time base has not got there. A remote request without a response for 1 ms ends with an
error: the unreachable bit, or a MEMERR. An ID outside the peer set is unreachable by the model's reading (assumption 33). -/
def Obligations.MessageCompletions : Prop :=
  (∀ core s o d q ch n sp a rot p, InFlight s core o → o.kind = .send d q ch n sp a rot → o.rem = 0 → n ≠ 0 → marksHold (s.core core).ops o.uid o.id q = false →
    sendsHold (s.core core).ops o.uid o.id q ch = false → s.partOf core = some p → FreeDest s core o.wave d o.id →
    let num := (NMap.getD (s.peer q).sseq 0 (64 * p.num + ch) - NMap.getD (s.netBase o.grid q).sseq 0 (64 * p.num + ch)) % 2 ^ 32
    ∃ t, exec (.sendCompletion core o.id) s = .next t ∧
      (o.fail ≠ 0 ∨ s.reach p q = false → Retired s t core o ∧ Holds t core o.wave d 0 unreachable ∧ t.pack = s.pack) ∧
      (∀ ws u, o.fail = 0 → State.bufRead core p sp rot o.reqs n s a = (.ok ws, u) → u.core core = s.core core → u.pack = s.pack → u.grids = s.grids →
        (s.reach p q = true → q ≠ p.acc → Retired s t core o ∧ Holds t core o.wave d 0 (2 ^ 32 * (n - 1) + num) ∧
          Sent s t (.message q (s.peer q).sentM ch ws) ∧ (t.peer q).sentW = (s.peer q).sentW + 1) ∧
        (q = p.acc → s.rqRoom q n = true → Retired s t core o ∧ Holds t core o.wave d 0 (2 ^ 32 * (n - 1) + num) ∧ t.pack.out = s.pack.out ∧
          (t.peer q).rq = (s.peer q).rq ++ [(NMap.getD (s.peer q).rseq 0 ch, ch, ws)])) ∧
      (o.fail = 0 → q = p.acc → s.rqRoom q n = false → t.mem = s.mem ∧ t.pack = s.pack ∧ (∃ x, t.op? core o.id = some x ∧ x.kind = o.kind ∧ x.reqs = o.reqs) ∧
        (o.padded = true → (t.core core).overrun = true))) ∧
  (∀ core s o d q ch n sp a rot m p u, InFlight s core o → o.kind = .recv d q ch n sp a rot (some m) → o.rem = 0 → n ≠ 0 → s.partOf core = some p →
    FreeDest s core o.wave d o.id → State.bufWrite core p sp rot o.reqs (m.2.take n) s a = (none, u) → u.cores.map (fun e => (e.1, e.2.waves)) = s.cores.map (fun e => (e.1, e.2.waves)) →
    NMap.get? s.cores core ≠ none →
    ∃ t, exec (.recvCompletion core o.id) s = .next t ∧ Retired s t core o ∧
      Holds t core o.wave d 0 (recvStatus n m.2.length (m.1 - NMap.getD (s.netBase o.grid q).rseq 0 ch)) ∧ t.mem = u.mem) ∧
  (∀ core s o d q ch n sp a rot k ws before after p u, InFlight s core o → o.kind = .recv d q ch n sp a rot none → o.rem = 0 → n ≠ 0 → s.partOf core = some p →
    FreeDest s core o.wave d o.id → s.recvsBefore q ch o.id = 0 → (s.peer q).rq = before ++ (k, ch, ws) :: after → (∀ x ∈ before, x.2.1 ≠ ch) →
    State.bufWrite core p sp rot o.reqs (ws.take n) ((s.updPeer q (fun x => { x with rq := before ++ after })).takeIn q) a = (none, u) →
    u.cores.map (fun e => (e.1, e.2.waves)) = s.cores.map (fun e => (e.1, e.2.waves)) → NMap.get? s.cores core ≠ none →
    ∃ t, exec (.recvCompletion core o.id) s = .next t ∧ Retired s t core o ∧
      Holds t core o.wave d 0 (recvStatus n ws.length (k - NMap.getD (s.netBase o.grid q).rseq 0 ch)) ∧ t.mem = u.mem) ∧
  (∀ core s o d q ch n sp a rot, InFlight s core o → o.kind = .recv d q ch n sp a rot none → o.rem = 0 → n ≠ 0 → s.msgReady q ch o.id = false →
    (s.canReach core q = false → FreeDest s core o.wave d o.id →
      ∃ t, exec (.recvCompletion core o.id) s = .next t ∧ Retired s t core o ∧ Holds t core o.wave d 0 unreachable ∧ t.mem = s.mem) ∧
    (s.canReach core q = true → s.isDet core = true → (∀ r ∈ o.reqs, r.again = false) →
      ∃ t x, exec (.recvCompletion core o.id) s = .next t ∧ (t.core core).overrun = true ∧ (s.now + 10000000 * tpNs, Instr.recvHoldTimeout core o.id) ∈ t.inputs ∧ t.mem = s.mem ∧
        t.op? core o.id = some x ∧ x.kind = o.kind ∧ ∀ r ∈ x.reqs, r.again = true ∧ r.since = s.timeNs)) ∧
  (∀ core s o d q ch n sp a rot, InFlight s core o → o.kind = .recv d q ch n sp a rot none → o.rem = 0 → FreeDest s core o.wave d o.id →
    ∃ t, exec (.recvHoldTimeout core o.id) s = .next t ∧ t.mem = s.mem ∧
      (∀ r, o.reqs.find? (·.again) = some r →
        (r.since + 10000000 ≤ s.timeNs → Retired s t core o ∧ Holds t core o.wave d 0 unreachable) ∧
        (s.timeNs < r.since + 10000000 → t = { s with inputs := t.inputs } ∧
          (s.now + (r.since + 10000000 - s.timeNs) * tpNs, Instr.recvHoldTimeout core o.id) ∈ t.inputs ∧ ∀ e ∈ s.inputs, e ∈ t.inputs)) ∧
      ((∀ r ∈ o.reqs, r.again = false) → t = s)) ∧
  (∀ core s o q ch, InFlight s core o → (∃ d sp a rot, o.kind = .send d q ch 0 sp a rot) ∨ (∃ d sp a rot m, o.kind = .recv d q ch 0 sp a rot m) → o.rem = 0 →
    marksHold (s.core core).ops o.uid o.id q = false → ∃ t u, exec (.sendCompletion core o.id) s = .next t ∧ exec (.recvCompletion core o.id) s = .next u ∧
      t.mem = s.mem ∧ u.mem = s.mem ∧ t.pack = s.pack ∧ u.pack = s.pack ∧
      ((∃ d sp a rot, o.kind = .send d q ch 0 sp a rot) → Retired s t core o) ∧ ((∃ d sp a rot m, o.kind = .recv d q ch 0 sp a rot m) → Retired s u core o)) ∧
  (∀ core s o d q ch n sp a rot, InFlight s core o → n ≠ 0 → FreeDest s core o.wave d o.id →
    (o.kind = .send d q ch n sp a rot ∧ s.ownId core q = false ∧ ∃ r ∈ o.reqs, r.since + responseTime ≤ s.now) ∨
      (o.kind = .recv d q ch n sp a rot none ∧ s.canReach core q = false) →
    ∃ t, exec (.remoteTimeout core o.id) s = .next t ∧ Retired s t core o ∧ Holds t core o.wave d 0 unreachable ∧ t.mem = s.mem) ∧
  (∀ core s o, InFlight s core o → (∀ r ∈ o.reqs, s.now < r.since + responseTime) → (∀ d q ch n sp a rot, o.kind ≠ .recv d q ch n sp a rot none) →
    exec (.remoteTimeout core o.id) s = .next s) ∧
  (∀ core s o d size c cop r, InFlight s core o → o.kind = .load d size c cop → o.reqs = [r] → o.rem = 0 → o.padded = false → r.remote = true → r.done = false → r.err = false →
    reqHeld (s.core core).ops o r = false → r.since + responseTime ≤ s.now → o.handler = false → (s.wave core o.wave).trap = none → r.lane < 64 →
    (∃ sp, NMap.get? (s.wave core o.wave).splits o.split = some sp) →
    ∃ t, exec (.remoteTimeout core o.id) s = .next t ∧ Retired s t core o ∧ t.mem = s.mem ∧
      DefersIn ((s.wave core o.wave).split o.split).deferred ((t.wave core o.wave).split o.split).deferred ⟨false, o.pc, r.va, laneBit r.lane, 0, o.id⟩)

/-- R288, R373 to R377, R380, R386: while a station is up, requests of peers perform at home and raise the fence counter of their source; those of a later epoch wait for
the markers before it, which are acknowledged once the counter reaches their count. A message enters its source's queue when it has room. Stations go down, the last
one ending the requests that wait for a response; they degrade, not without the rails (R346), and retrain. The model says which station a SEND's request takes (assumption 92). Where a request's alignment is not that of a power of two, and what a waiting message does, is the model's reading (assumption 70). -/
def Obligations.PeerEvents : Prop :=
  (∀ (r : PeerReq) s (bs : List (List Byte)), s.linkUp = true → r.kind = 0 → peerReqOk r = true → r.parts.map (s.peerRead r.addr) = bs.map some →
    ∃ t, exec (.remoteRequestArrival r) s = .next t ∧ Sent s t (.data bs.flatten) ∧ t.cores = s.cores ∧
      t.mem = r.parts.foldl (fun m x => match localOf (r.addr + x.ofs) with | some pa => m.noteRead pa .cg | none => m) s.mem) ∧
  (∀ (r : PeerReq) s x pa u, s.linkUp = true → r.kind = 1 → peerReqOk r = true → r.parts = [x] → localOf (r.addr + x.ofs) = some pa →
    r.epoch ≤ (s.peer r.src).acked → (s.updPeer r.src (fun p => { p with fence := p.fence + 1 })).homeBytes pa (natLE x.len (leNat x.data)) = some u →
    ∃ t, exec (.remoteWriteArrival r) s = .next t ∧ t.mem = u.mem ∧ Sent s t (.data []) ∧ (t.peer r.src).fence = (s.peer r.src).fence + 1) ∧
  (∀ (r : PeerReq) s x pa f old u, s.linkUp = true → 2 ≤ r.kind → peerReqOk r = true → r.parts = [x] → localOf (r.addr + x.ofs) = some pa →
    r.epoch ≤ (s.peer r.src).acked → upliAtom r.kind x.len = some f → s.mem.load pa x.len = some old →
    let v := leNat (x.data.take x.len)
    (s.updPeer r.src (fun p => { p with fence := p.fence + 1 })).homeBytes pa
      (natLE x.len (atomValue f.1 f.2 old (if r.kind = 8 then leNat ((x.data.drop x.len).take x.len) else v) v)) = some u →
    ∃ t, exec (.remoteWriteArrival r) s = .next t ∧ t.mem = u.mem ∧ Sent s t (.data (natLE x.len old)) ∧ (t.peer r.src).fence = (s.peer r.src).fence + 1) ∧
  (∀ (r : PeerReq) s, s.linkUp = true → 1 ≤ r.kind → peerReqOk r = true → (s.peer r.src).acked < r.epoch →
    ∃ t, exec (.remoteWriteArrival r) s = .next t ∧ t.mem = s.mem ∧ t.cores = s.cores ∧ t.pack.out = s.pack.out ∧
      t.peer r.src = { s.peer r.src with held := (s.peer r.src).held ++ [⟨r.src, r.epoch, r.kind, r.addr, r.parts, none⟩] }) ∧
  (∀ (r : PeerReq) s, s.linkUp = true → peerReqOk r = false → ∃ t u, exec (.remoteRequestArrival r) s = .next t ∧ t = s.emit .error ∧
    exec (.remoteWriteArrival r) s = .next u ∧ u = s.emit .error) ∧
  (∀ src ch epoch data s, s.linkUp = true → (s.peer src).held = [] → ∃ t, exec (.messageArrival src ch epoch data) s = .next t ∧ t.mem = s.mem ∧ t.cores = s.cores ∧
    (epoch ≤ (s.peer src).acked → s.rqRoom src data.length = true →
      (t.peer src).rq = (s.peer src).rq ++ [(NMap.getD (s.peer src).rseq 0 ch, ch, data)] ∧ (t.peer src).fence = (s.peer src).fence + 1 ∧ (t.peer src).held = []) ∧
    ((s.peer src).acked < epoch ∨ s.rqRoom src data.length = false →
      t.peer src = { s.peer src with held := [⟨src, epoch, 0, 0, [], some (ch, data)⟩] })) ∧
  (∀ src count s, ∃ t, exec (.drainMarkerArrival src count) s = .next t ∧ t.mem = s.mem ∧ t.cores = s.cores ∧
    t.peer src = { s.peer src with marks := (s.peer src).marks ++ [((s.peer src).acked + (s.peer src).marks.length + 1, count)] }) ∧
  (∀ src s m r, (s.peer src).marks = m :: r → m.2 ≤ (s.peer src).fence → (s.peer src).held = [] → ∃ t, exec (.markerAcknowledge src) s = .next t ∧
    (t.peer src).marks = r ∧ (t.peer src).acked = m.1 ∧ Sent s t (.markerAck src m.1) ∧ t.mem = s.mem ∧ t.cores = s.cores) ∧
  (∀ src s m r h, (s.peer src).marks = m :: r → m.2 ≤ (s.peer src).fence → (s.peer src).held = [h] → h.src = src → h.msg = none → h.epoch ≤ m.1 →
    ∃ t, exec (.markerAcknowledge src) s = .next t ∧ (t.peer src).marks = r ∧ (t.peer src).acked = m.1 ∧ (t.peer src).held = [] ∧
      (t.peer src).fence = (s.peer src).fence + 1) ∧
  (∀ n s x, NMap.get? s.pack.stations n = some x → (s.cores.all (fun e => e.2.ops.isEmpty)) = true → (s.clusters.all (fun e => e.2.copies.isEmpty)) = true →
    ∃ t, exec (.stationDown n) s = .next t ∧ NMap.get? t.pack.stations n = some { x with up := false, width := 0 } ∧ t.mem = s.mem ∧ t.cores = s.cores) ∧
  (∀ n s core o d q ch k sp a rot, s.upStations = [n] → InFlight s core o → NMap.sorted s.cores = true → (s.core core).ops = [o] →
    (∀ e ∈ s.cores, e.1 ≠ core → e.2.ops = []) → (∀ e ∈ s.clusters, e.2.copies = []) → (∀ r ∈ o.reqs, r.done = true) → o.kind = .send d q ch k sp a rot → k ≠ 0 →
    s.ownId core q = false → o.padded = false → FreeDest s core o.wave d o.id →
    ∃ t, exec (.stationDown n) s = .next t ∧ Retired s t core o ∧ Holds t core o.wave d 0 unreachable ∧ t.mem = s.mem) ∧
  (∀ n s core o d size c cop r, s.upStations = [n] → InFlight s core o → NMap.sorted s.cores = true → (s.core core).ops = [o] →
    (∀ e ∈ s.cores, e.1 ≠ core → e.2.ops = []) → (∀ e ∈ s.clusters, e.2.copies = []) → o.kind = .load d size c cop → o.reqs = [r] → o.rem = 0 → r.remote = true →
    r.done = false → r.err = false → reqHeld (s.core core).ops o r = false → o.handler = false → (s.wave core o.wave).trap = none → r.lane < 64 →
    (∃ y, NMap.get? (s.wave core o.wave).splits o.split = some y) →
    ∃ t, exec (.stationDown n) s = .next t ∧ Retired s t core o ∧ t.mem = s.mem ∧
      DefersIn ((s.wave core o.wave).split o.split).deferred ((t.wave core o.wave).split o.split).deferred ⟨false, o.pc, r.va, laneBit r.lane, 0, o.id⟩) ∧
  (∀ n s x, NMap.get? s.pack.stations n = some x → ∃ t u, exec (.stationDegraded n) s = .next t ∧
    (s.pack.power = .off → t = s) ∧ (s.pack.power ≠ .off → OnlyPack s t ∧ NMap.get? t.pack.stations n = some { x with up := true, width := 1, degraded := true }) ∧
    exec (.linkRetry n) s = .next u ∧ OnlyPack s u ∧ NMap.get? u.pack.stations n = some { x with retrain := Nat.min 65535 (x.retrain + 1) })

/-! ### Engines -/

/-- R204, R205, R214 to R217, R219, R220, R222, R223, R225 to R227, R233, R237, R387: a startable task opens on its seat, CINIT setting its carry; a unit whose array time is
over commits, with the accumulator, the carry and the outputs its kind computes, the last one leaving the task to take effect; a task whose count has run out leaves, its tag set
and its flags collected, under DET its units computed then; a fault names an access of its unit and sets the tag with TAGERR, under DET at the task's padded completion. A side-port
operation starts once its tags are set, and completes with its registers written and its tag set. An operation without an active lane sets its tag. Two tasks of a pair on one array
are the model's reading (assumption 35), that CINIT sets the carry as the task starts, and not at its issue, is another (assumption 45), and so is the array a released name is
bound to anew (assumption 105). -/
def Obligations.ArrayEvents : Prop :=
  (∀ c a s x, s.startable c a = some x → (s.cluster c).tasks.find? (fun t => t.id == x.id) = some x → NMap.get? s.clusters c ≠ none →
    ∃ t y, exec (.taskStart c a) s = .next t ∧ (t.cluster c).tasks.find? (fun t => t.id == x.id) = some y ∧ y.arr = some a ∧ y.words = x.words ∧ t.mem = s.mem ∧ t.cores = s.cores ∧
      ((s.cluster c).det = true → y.pad = some (s.taskPad x)) ∧ ((s.cluster c).det = false → y.left = (if tKind x.words = 3 then 80 else 48 + unitTime x.words) ∧
        let m := (t.cluster c).marr (a % 4)
        y.tile0 = m.acc ∧ y.carry0 = m.carry ∧ m.acc = ((s.cluster c).marr (a % 4)).acc ∧
        (tKind x.words = 2 → rw x.words 0 15 1 = 1 → x.unit = 0 → tN x.words ≤ 128 → ∀ k, k < tN x.words →
          let kc := (s.cluster c).carryOf x.core (tKc x.words)
          m.rdC kc k 0 = 0x3F800000#32 ∧ m.rdC kc k 1 = 0#32) ∧
        (tKind x.words ≠ 2 ∨ rw x.words 0 15 1 = 0 → m.carry = ((s.cluster c).marr (a % 4)).carry))) ∧
  (∀ c a s x, (s.cluster c).running a = some x → x.left = 0 → x.pad = none → (s.cluster c).tasks.find? (fun t => t.id == x.id) = some x → NMap.get? s.clusters c ≠ none →
    ∃ t, exec (.taskCommit c a) s = .next t ∧ UnitDone s t c x ∧
      ∀ y u, s.taskUnit c x = (none, y, u) → y.id = x.id → (u.cluster c).tasks = (s.cluster c).tasks → NMap.get? u.clusters c ≠ none →
        ∃ z, (t.cluster c).tasks.find? (fun t => t.id == x.id) = some z ∧ z.unit = y.unit ∧ t.mem = u.mem ∧ y.unit = x.unit + 1 ∧
          (y.unit < tUnits y.words → z.done = y.done ∧ z.left = unitTime y.words) ∧ (tUnits y.words ≤ y.unit → z.done = true ∧ z.pad.isSome = true)) ∧
  (∀ c a s x, (s.cluster c).tasks.find? (fun t => t.arr == some a && t.pad == some 0) = some x → x.done = true → x.ptag < 64 → NMap.get? s.cores x.core ≠ none →
    NMap.get? s.clusters c ≠ none →
    ∃ t, exec (.taskCompletion c a) s = .next t ∧ TagSets t x.core x.ptag false ∧ (∀ y ∈ (t.cluster c).tasks, y.id ≠ x.id) ∧ t.mem = s.mem ∧
      (t.core x.core).tagerr = (s.core x.core).tagerr ∧
      ∀ w, s.wave? x.core x.wave = some w → w.uid = x.uid → (t.wave x.core x.wave).aflg = w.aflg ||| x.flags) ∧
  (∀ c a s x y cl, (s.cluster c).tasks.find? (fun t => t.arr == some a && t.pad == some 0) = some x → x.done = false → x.fail = none → tUnits x.words = x.unit + 1 →
    NMap.get? s.clusters c ≠ none → (s.cluster c).openTask x a = (y, cl) →
    ∃ t, exec (.taskCompletion c a) s = .next t ∧ UnitDone (s.setCluster c cl) t c y ∧ ∀ z ∈ (t.cluster c).tasks, z.id ≠ x.id) ∧
  (∀ c a cause s x, (s.cluster c).running a = some x → (s.cluster c).det = true → (s.cluster c).tasks.find? (fun t => t.id == x.id) = some x → x.fail = none →
    NMap.get? s.clusters c ≠ none → x.unit < tUnits x.words → (cause = 1 → ∀ k, k < tUnits x.words - x.unit → x.reaches (x.unit + k) true ≠ []) →
    ∃ t f, exec (.taskFault c a cause) s = .next t ∧ (t.cluster c).tasks.find? (fun t => t.id == x.id) = some { x with fail := some f } ∧
      f.2.1 = cause ∧ f.1 < tUnits x.words - x.unit ∧ (cause ≠ 1 → f.2.2.1 = 0) ∧ f.2.2.1 < 4 ∧
      (x.reaches (x.unit + f.1) (cause == 1) ≠ [] → f.2.2.2 ∈ x.reaches (x.unit + f.1) (cause == 1)) ∧ t.mem = s.mem ∧ t.cores = s.cores ∧ t.grids = s.grids) ∧
  (∀ c a cause s x, (s.cluster c).running a = some x → (s.cluster c).det = false → x.ptag < 64 → NMap.get? s.cores x.core ≠ none → NMap.get? s.clusters c ≠ none →
    (cause = 1 → x.reaches x.unit true ≠ []) →
    ∃ t, exec (.taskFault c a cause) s = .next t ∧ TagSets t x.core x.ptag true ∧ (∀ y ∈ (t.cluster c).tasks, y.id ≠ x.id)) ∧
  (∀ c s cl, NMap.get? s.clusters c = some cl → cl.paired = true → cl.winIc % 64 = 0 →
    ∃ t, exec (.pairedWindowBoundary c) s = .next t ∧ NMap.get? t.clusters c = some { cl with winIc := cl.winIc % 128 } ∧ t.mem = s.mem ∧ t.cores = s.cores) ∧
  (∀ c s o a, (s.cluster c).sides.find? (fun x => x.id == o.id) = some o → NMap.get? s.clusters c ≠ none →
    ((s.updCluster c (fun cl => cl.bindPair (bitsNat o.desc.toNat 16 3))).cluster c).arrayOf o.core (bitsNat o.desc.toNat 16 3) = some a → o.started = false →
    s.tagsReady o.core o.waits = true →
    ∃ t x, exec (.sideportStart c o.id) s = .next t ∧ (t.cluster c).sides.find? (fun x => x.id == o.id) = some x ∧ x.started = true ∧ t.mem = s.mem ∧ t.cores = s.cores ∧
      ((s.cluster c).det = true → x.rem = s.sidePad o ∧ x.data = o.data)) ∧
  (∀ c s o, (s.cluster c).sides.find? (fun x => x.id == o.id) = some o → NMap.get? s.clusters c ≠ none → NMap.get? s.cores o.core ≠ none → o.started = true → o.rem = 0 → o.ptag < 64 →
    ∃ t, exec (.sideportCompletion c o.id) s = .next t ∧ TagSets t o.core o.ptag false ∧ (∀ x ∈ (t.cluster c).sides, x.id ≠ o.id) ∧ t.mem = s.mem ∧
      (∀ k, (s.cluster c).det = false → o.regs = [k] → (∃ w, s.wave? o.core o.wave = some w ∧ w.uid = o.uid ∧ w.later k o.id = 0#64) →
        ∀ l, l < 64 → rdV (t.core o.core) (t.wave o.core o.wave) k l = (o.data.getD 0 []).getD l 0#32)) ∧
  (∀ c s e, (s.cluster c).empties.find? (fun x => x.id == e.id) = some e → s.away e.core e.uid = false → NMap.get? s.cores e.core ≠ none → NMap.get? s.clusters c ≠ none → e.ptag < 64 →
    e.rem = some 0 ∨ (e.rem = none ∧ s.tagsReady e.core e.waits = true ∧ s.isDet e.core = false) →
    ∃ t, exec (.emptyEngineOpTagSet c e.id) s = .next t ∧ TagSets t e.core e.ptag false ∧ (∀ x ∈ (t.cluster c).empties, x.id ≠ e.id) ∧ t.mem = s.mem ∧
      (t.core e.core).tagerr = (s.core e.core).tagerr)

/-- R233, R234, R237, R239 to R243, R245, R246, R259, R353, R382 to R384, R386: a copy whose tags are set starts in a free unit; it moves its points in order and with the last one leaves, its
tag set: each writes the element of its source address, converted where formats are given, at its destination address; CPYQ fills the ring place after the queue's entries; CPYO takes the head and writes its bytes once they leave no word half written, under DET at the figure after its last entry. A COLL's answer waits for its
padded ic under DET, and ends with an error where every station is down and nothing of the others has come. An empty copy sets its tag as it starts. Failures, orphans and errors
end a command with TAGERR, a failure of a running one under DET at its padded ic. The order of a copy's points is the model's reading (assumption 31). -/
def Obligations.CopyEvents : Prop :=
  (∀ w n, n < cpTotal w → (cpPoint w n).length = cpDims w ∧ (∀ i, i < cpDims w → (cpPoint w n).getD i 0 < (cpBounds w).getD i 0) ∧
    (List.range (cpDims w)).foldl (fun k i => k * (cpBounds w).getD i 0 + (cpPoint w n).getD i 0) 0 = n ∧
    ∀ (base k : Nat) (pt : List Nat), cpAddr w base k pt = (base : Int) + ((List.range (cpDims w)).map (fun i => (pt.getD i 0 : Int) * sext 32 (cpHalf w k i))).sum) ∧
  (∀ cl s c p, s.copy? cl c.id = some c → NMap.get? s.clusters cl ≠ none → NMap.get? s.cores c.core ≠ none → c.started = true → c.rem = 0 → c.fail = none → c.kind = .cpy →
    s.partOf c.core = some p → s.isDet c.core = true ∨ cpTotal c.words = c.done + 1 → c.done ≤ cpTotal c.words → c.ptag < 64 →
    let w := c.words
    let a := cpCore w c.core (cw w 2 0 3)
    let b := cpCore w c.core (cw w 2 4 3)
    let size := 2 ^ cw w 2 34 2
    cw w 2 0 3 = 0 ∨ cw w 2 0 3 = 5 → cw w 2 4 3 = 0 ∨ cw w 2 4 3 = 5 → cw w 2 16 8 = 0 → NMap.get? s.cores b ≠ none → NoPendingStore (s.core a) → NoPendingStore (s.core b) →
    (a = b → ∀ n j m i, c.done ≤ n → n < cpTotal w → j < size → c.done ≤ m → m < cpTotal w → i < size → copySrc w n j ≠ copyDst w m i) →
    ∃ t, exec (.copyCompletion cl c.id) s = .next t ∧ TagSets t c.core c.ptag false ∧
      CopiesTo (s.core b) (t.core b) w c.done (cpTotal w) size (fun n j => (s.core a).spRaw (copySrc w n j))) ∧
  (∀ cl s c p ra rb x m, s.copy? cl c.id = some c → NMap.get? s.clusters cl ≠ none → NMap.get? s.cores c.core ≠ none → c.started = true → c.rem = 0 → c.fail = none → c.kind = .cpy →
    s.partOf c.core = some p → cpTotal c.words = c.done + 1 → c.ptag < 64 →
    let w := c.words
    let sa := (cpSrc w (cpPoint w c.done) % 2 ^ 64).toNat
    let da := (cpDst w (cpPoint w c.done) % 2 ^ 64).toNat
    let tlb := (s.cluster (clusterOf c.core)).tlb
    cw w 2 0 3 = 1 ∨ cw w 2 0 3 = 2 → cw w 2 4 3 = 1 → tlbXlat tlb p sa .rd = some ra → tlbXlat tlb p da .wr = some rb → isRemote (ra.at sa) = false → isRemote (rb.at da) = false →
    s.mem.load (ra.at sa) (cpSrcSize w) = some x →
    ((s.mem.noteRead (ra.at sa) .cg).noteCopy (ra.at sa) (dieOf c.core) .cg).store (rb.at da) (cpDstSize w) (match FFmt.of (cw w 2 16 8), FFmt.of (cw w 2 24 8) with
      | some f, some g => if cw w 2 16 8 = 0 then x else (encFmt g .rn (cw w 2 39 1 == 1) 0 (decFmt f x)).1
      | _, _ => x) = some m →
    ∃ t, exec (.copyCompletion cl c.id) s = .next t ∧ TagSets t c.core c.ptag false ∧ t.mem = m.noteWrite (rb.at da) .cg) ∧
  (∀ cl s c p x, s.copy? cl c.id = some c → NMap.get? s.clusters cl ≠ none → NMap.get? s.cores c.core ≠ none → c.started = true → c.rem = 0 → c.fail = none → c.kind = .cpyq → s.partOf c.core = some p →
    let w := c.words
    let a := cpCore w c.core (cw w 2 0 3)
    let size := 2 ^ cw w 2 34 2
    let q := (w.getD 1 0#64).toNat % 16
    (if s.isDet c.core then c.late < (s.ratio c.core).scale 8 else c.unit.isSome = true) → NMap.get? (s.core c.core).queues q = some x → x.ents.length < 8 →
    cw w 2 0 3 = 0 ∨ cw w 2 0 3 = 5 → cw w 2 16 8 = 0 → NoPendingStore (s.core a) → NoPendingStore (s.core c.core) →
    ∃ t e, exec (.cpyqEntryPush cl c.id) s = .next t ∧ NMap.get? (t.core c.core).queues q = some { x with ents := x.ents ++ [e] } ∧ e.filled = true ∧
      ∀ i, i < 256 → (VMap.rd e.data (i / 4)).toNat / 256 ^ (i % 4) % 256 =
        ((s.core a).spRaw (copySrc w (c.done * (256 / size) + i / size) (i % size))).toNat) ∧
  (∀ cl s c p, s.copy? cl c.id = some c → NMap.get? s.clusters cl ≠ none → NMap.get? s.cores c.core ≠ none → c.started = true → c.rem = 0 → c.fail = none → c.kind = .cpyo → c.closed = true →
    s.partOf c.core = some p → c.ptag < 64 →
    let w := c.words
    let b := cpCore w c.core (cw w 2 4 3)
    let size := 2 ^ cw w 2 34 2
    let first := (c.done - c.buf.length) * (256 / size)
    cw w 2 4 3 = 0 ∨ cw w 2 4 3 = 5 → cw w 2 16 8 = 0 → NMap.get? s.cores b ≠ none → NoPendingStore (s.core b) → (∀ y ∈ c.buf, y.length = 256) → c.buf.length ≤ c.done →
    ∃ t, exec (.cpyoEntryPop cl c.id) s = .next t ∧ TagSets t c.core c.ptag false ∧
      CopiesTo (s.core b) (t.core b) w first (c.done * (256 / size)) size (fun n j => c.buf.flatten.getD ((n - first) * size + j) 0#8)) ∧
  (∀ cl s c, s.copy? cl c.id = some c → NMap.get? s.clusters cl ≠ none → c.started = false → s.tagsReady c.core c.waits = true → s.cpyrHeld c = false → (s.cluster cl).allStopped = false →
    c.kind = .cpy ∨ c.kind = .cpyr → cpTotal c.words ≠ 0 → cw c.words 2 0 3 ≠ 5 → cw c.words 2 4 3 ≠ 5 → s.isDet c.core = false →
    ∀ u, (s.cluster cl).freeUnit = some u →
    ∃ t x, exec (.copyStart cl c.id) s = .next t ∧ t.copy? cl c.id = some x ∧ x = { c with started := true, rem := x.rem, unit := some u, since := s.now } ∧ t.mem = s.mem ∧ t.cores = s.cores) ∧
  (∀ cl s c p n u, s.copy? cl c.id = some c → NMap.get? s.clusters cl ≠ none → NMap.get? s.cores c.core ≠ none → c.started = true → c.rem = 0 → c.fail = none → c.kind = .cpy ∨ c.kind = .cpyr →
    s.partOf c.core = some p → s.isDet c.core = true → n = cpTotal c.words - c.done → c.done ≤ cpTotal c.words → c.ptag < 64 →
    State.cpRun c p s.pack.out.length n { s with fresh := s.fresh + 2 } c.done = (cpTotal c.words, none, u) → NMap.get? u.cores c.core ≠ none →
    ∃ t, exec (.copyCompletion cl c.id) s = .next t ∧ TagSets t c.core c.ptag false ∧ (∀ x ∈ (t.cluster cl).copies, x.id ≠ c.id) ∧ t.mem = u.mem) ∧
  (∀ cl s c p x bs u, s.copy? cl c.id = some c → NMap.get? s.clusters cl ≠ none → c.started = true → c.rem = 0 → c.fail = none → c.kind = .cpyq → s.partOf c.core = some p →
    let q := (c.words.getD 1 0#64).toNat % 16
    (if s.isDet c.core then c.late < (s.ratio c.core).scale 8 else c.unit.isSome = true) → NMap.get? (s.core c.core).queues q = some x → x.ents.length < 8 → State.cpGather c p (cpPer c) s (c.done * cpPer c) = (.ok bs, u) →
    NMap.get? u.cores c.core ≠ none → NMap.get? u.clusters cl ≠ none →
    ∃ t, exec (.cpyqEntryPush cl c.id) s = .next t ∧ t.mem = u.mem ∧
      NMap.get? (t.core c.core).queues q = some { x with ents := x.ents ++ [⟨(x.head + x.ents.length) % 8, true, entryOf bs⟩] }) ∧
  (∀ cl s c p x e r, s.copy? cl c.id = some c → NMap.get? s.clusters cl ≠ none → NMap.get? s.cores c.core ≠ none → c.started = true → c.rem = 0 → c.kind = .cpyo → c.closed = false → s.partOf c.core = some p →
    let q := (c.words.getD 0 0#64).toNat % 16
    s.isDet c.core = false → c.unit.isSome = true → NMap.get? (s.core c.core).queues q = some x → x.ents = e :: r → e.filled = true →
    let c' : CopyCmd := { c.turn false 0 s.fresh with buf := c.buf ++ [bytesOf e.data] }
    let s' : State := { s.updCore c.core (fun k => k.popQ q) with fresh := s.fresh + 1 }
    let last := cpEntries c ≤ c.done + 1
    ∃ t, exec (.cpyoEntryPop cl c.id) s = .next t ∧
      (¬ last → cpCut c ((c.done + 1) * cpPer c) = false → t.mem = s.mem ∧ t.copy? cl c.id = some c' ∧
        NMap.get? (t.core c.core).queues q = some { x with head := (x.head + 1) % 8, ents := r }) ∧
      (∀ n u, State.cpFlush c' p c'.buf s' (c'.done - c'.buf.length) = (n, none, u) → (u.core c.core).queues = (s'.core c.core).queues →
        u.clusters = s'.clusters → NMap.get? u.cores c.core ≠ none →
        (last → t.mem = u.mem ∧ (c.ptag < 64 → TagSets t c.core c.ptag false) ∧ ∀ y ∈ (t.cluster cl).copies, y.id ≠ c.id) ∧
        (¬ last → cpCut c ((c.done + 1) * cpPer c) = true → t.mem = u.mem ∧ t.copy? cl c.id = some { c' with buf := [] } ∧
          NMap.get? (t.core c.core).queues q = some { x with head := (x.head + 1) % 8, ents := r }))) ∧
  (∀ cl s c p x e r, s.copy? cl c.id = some c → NMap.get? s.clusters cl ≠ none → NMap.get? s.cores c.core ≠ none → c.started = true → c.rem = 0 → c.kind = .cpyo → c.closed = false → s.partOf c.core = some p →
    let q := (c.words.getD 0 0#64).toNat % 16
    s.isDet c.core = true → c.late < (s.ratio c.core).scale 8 → NMap.get? (s.core c.core).queues q = some x → x.ents = e :: r → e.filled = true →
    ∃ t y, exec (.cpyoEntryPop cl c.id) s = .next t ∧ t.mem = s.mem ∧ NMap.get? (t.core c.core).queues q = some { x with head := (x.head + 1) % 8, ents := r } ∧
      t.copy? cl c.id = some y ∧ y.buf = c.buf ++ [bytesOf e.data] ∧ y.done = c.done + 1 ∧ y.closed = decide (cpEntries c ≤ c.done + 1)) ∧
  (∀ cl s c p n u, s.copy? cl c.id = some c → NMap.get? s.clusters cl ≠ none → NMap.get? s.cores c.core ≠ none → c.started = true → c.rem = 0 → c.fail = none → c.kind = .cpyo → c.closed = true → s.partOf c.core = some p →
    c.ptag < 64 → State.cpFlush c p c.buf s (c.done - c.buf.length) = (n, none, u) → NMap.get? u.cores c.core ≠ none →
    ∃ t, exec (.cpyoEntryPop cl c.id) s = .next t ∧ TagSets t c.core c.ptag false ∧ (∀ x ∈ (t.cluster cl).copies, x.id ≠ c.id) ∧ t.mem = u.mem) ∧
  (∀ cl s c cause, s.copy? cl c.id = some c → NMap.get? s.clusters cl ≠ none → NMap.get? s.cores c.core ≠ none → c.ptag < 64 →
    let late := s.isDet c.core = true ∧ c.started = true ∧ c.rem ≠ 0
    ∃ t u, exec (.copyFault cl c.id cause) s = .next t ∧
      (cause = 6 → c.overdue s.now = false → (c.remote = true → s.linkUp = true) → t = s) ∧
      ((cause = 6 → c.overdue s.now = true ∨ (c.remote = true ∧ s.linkUp = false)) →
        (¬ late → TagSets t c.core c.ptag true ∧ ∀ x ∈ (t.cluster cl).copies, x.id ≠ c.id) ∧
        (late → t.mem = s.mem ∧ t.cores = s.cores ∧ ∃ x, t.copy? cl c.id = some x ∧ x = { c with fail := x.fail } ∧
          (c.fail.isSome = true → x.fail = c.fail) ∧ (c.fail = none → ∃ k a, x.fail = some (cause, k, a) ∧ (cause ≠ 1 → k = 0))) ∧
        (t.cluster cl).health.uce = (if cause = 2 then Nat.min 65535 ((s.cluster cl).health.uce + 1) else (s.cluster cl).health.uce)) ∧
      exec (.queueRecordError cl false c.id) s = .next u ∧ TagSets u c.core c.ptag true ∧ (∀ x ∈ (u.cluster cl).copies, x.id ≠ c.id)) ∧
  (∀ cl s c, s.copy? cl c.id = some c → NMap.get? s.clusters cl ≠ none → NMap.get? s.cores c.core ≠ none → c.ptag < 64 → c.started = true → c.rem = 0 → c.fail.isSome = true →
    (c.kind = .cpyo → c.closed = true) →
    ∃ t, exec (if c.kind = .cpyq then .cpyqEntryPush cl c.id else if c.kind = .cpyo then .cpyoEntryPop cl c.id else if c.kind = .coll then .collCompletion cl c.id true []
        else .copyCompletion cl c.id) s = .next t ∧ TagSets t c.core c.ptag true ∧ ∀ x ∈ (t.cluster cl).copies, x.id ≠ c.id) ∧
  (∀ cl s c, s.copy? cl c.id = some c → NMap.get? s.clusters cl ≠ none → NMap.get? s.cores c.core ≠ none → c.ptag < 64 → c.started = false → s.tagsReady c.core c.waits = true →
    s.cpyrHeld c = false → (s.cluster cl).allStopped = false → c.kind ≠ .coll → cpTotal c.words = 0 →
    ∃ t, exec (.copyStart cl c.id) s = .next t ∧ TagSets t c.core c.ptag false ∧ (t.core c.core).tagerr = (s.core c.core).tagerr ∧ t.mem = s.mem ∧
      ∀ x ∈ (t.cluster cl).copies, x.id ≠ c.id) ∧
  (∀ cl s c agree data, s.copy? cl c.id = some c → NMap.get? s.clusters cl ≠ none → NMap.get? s.cores c.core ≠ none → c.ptag < 64 → c.started = true → c.kind = .coll →
    (s.isDet c.core = true → c.rem = 0) → c.got = none → s.linkUp = false →
    ∃ t, exec (.collCompletion cl c.id agree data) s = .next t ∧ TagSets t c.core c.ptag true ∧ ∀ x ∈ (t.cluster cl).copies, x.id ≠ c.id) ∧
  (∀ cl s c, s.copy? cl c.id = some c → NMap.get? s.clusters cl ≠ none → NMap.get? s.cores c.core ≠ none → c.ptag < 64 → c.started = false → s.orphaned c.core c.grid c.id c.waits = true →
    ∃ t, exec (.engineOrphan cl c.id) s = .next t ∧ TagSets t c.core c.ptag true ∧ (∀ x ∈ (t.cluster cl).copies, x.id ≠ c.id)) ∧
  (∀ cl s c data, s.copy? cl c.id = some c → NMap.get? s.clusters cl ≠ none → NMap.get? s.cores c.core ≠ none → c.ptag < 64 → c.started = true → c.kind = .coll → (s.isDet c.core = true → c.rem = 0) →
    ∃ t, exec (.collCompletion cl c.id false data) s = .next t ∧ TagSets t c.core c.ptag true ∧ (∀ x ∈ (t.cluster cl).copies, x.id ≠ c.id)) ∧
  (∀ cl s c p data x mine, s.copy? cl c.id = some c → NMap.get? s.clusters cl ≠ none → NMap.get? s.cores c.core ≠ none → c.ptag < 64 → c.started = true → c.kind = .coll → (s.isDet c.core = true → c.rem = 0) → c.fail = none → c.got.isSome = true ∨ s.linkUp = true → s.partOf c.core = some p →
    let w := c.words
    let n := cw w 4 0 11
    let own := cw w 4 16 10
    let len := if cw w 2 35 3 = 2 then n * cw w 2 0 32 else cw w 2 0 32
    (s.engRead c.core p .g (cw w 3 0 64 + 2 * own) 2 none).1 = .ok x → x % 1024 = p.acc → s.engWords c.core p len (cw w 0 0 64) = .ok mine →
    let out := collOut (cw w 2 35 3) ((SetOp.of (cw w 2 32 3)).getD .addF32) (cw w 2 0 32) own ((List.range n).map (fun r => if r = own then mine else wordsAt data (r * len) len))
    ∀ d u, State.engPut c.core p (out.map (·.1)) s (cw w 1 0 64) 0 = (d, none, u) → NMap.get? u.cores c.core ≠ none → NMap.get? u.clusters cl ≠ none →
    ∃ t, exec (.collCompletion cl c.id true data) s = .next t ∧ TagSets t c.core c.ptag false ∧ (∀ x ∈ (t.cluster cl).copies, x.id ≠ c.id) ∧ t.mem = u.mem) ∧
  (∀ cl s c agree data, s.copy? cl c.id = some c → NMap.get? s.clusters cl ≠ none → c.started = true → c.kind = .coll → s.isDet c.core = true → c.rem ≠ 0 →
    ∃ t, exec (.collCompletion cl c.id agree data) s = .next t ∧ t.copy? cl c.id = some { c with got := some (agree, data) } ∧ t.mem = s.mem ∧ t.cores = s.cores) ∧
  (∀ cl unit s k, NMap.get? s.clusters cl = some k → unit < k.unitStop.length → (∀ c ∈ k.copies, c.unit ≠ some unit) →
    ∃ t, exec (.copyUnitError cl unit) s = .next t ∧ (t.cluster cl).unitStop.getD unit false = true ∧ (t.cluster cl).copies = k.copies ∧
      (t.cluster cl).health.uce = Nat.min 65535 (k.health.uce + 1) ∧ t.mem = s.mem ∧ t.cores = s.cores)

/-- R136, R185, R255, R256, R259, R316: a barrier whose participants have all arrived opens its next phase; a release group whose issue cycle has come goes on, and is an
acquire; a core whose opening is late under DET, or whose padded data is late, is held and the count of overruns rises; the late data ends the hold. An error in the barrier unit
ends the grid with BARFAULT; one in the loop sequencer marks it failed. Who takes part in a GBAR or an SBAR under quantum scheduling is the model's reading (assumption 57), that an error in the barrier unit stops the waves at once (assumption 61) its choice, and so is that the event's second
argument tells an error of the loop sequencer, which then stays failed, from one of the barrier unit (assumption 18). -/
def Obligations.BarrierEvents : Prop :=
  (∀ grid key s g b, s.grid? grid = some g → g.bars[key]? = some b → s.barReady g b.id = true →
    ∃ t g', exec (.barrierOpen grid key) s = .next t ∧ t.grid? grid = some g' ∧ g'.bars = g.bars.map (fun x => if x.id = b.id then { x with phase := x.phase + 1 } else x) ∧
      t.mem = s.mem ∧ t.parts = s.parts ∧ t.clusters = s.clusters) ∧
  (∀ cluster s core w wv n sp, core / 8 = cluster → s.wave? core w = some wv → NMap.get? wv.splits n = some sp → wv.trap = none → sp.released.isSome = true →
    ∃ t, exec (.releaseGroup cluster) s = .next t ∧ t.mem = s.mem ∧ (t.core core).l1 = (s.core core).l1.filter (fun e => e.2.c) ∧
      (t.wave core w).split n = { sp with bar := none } ∧ (t.wave core w).v = wv.v ∧ (t.wave core w).s = wv.s) ∧
  (∀ cluster grid s g core w wv n sp b p, core / 8 = cluster → core < 768 → s.grid? grid = some g → g.det = true → b ∈ g.bars → s.barDue g b cluster = true →
    s.wave? core w = some wv → g.joins b.id wv = true → wv.trap = none → NMap.get? wv.splits n = some sp → sp.waits b.id.key b.phase = true → (s.core core).overrun = false →
    s.partOf core = some p → partAt s p.num p →
    ∃ t, exec (.detOpeningDeadline cluster grid) s = .next t ∧ (t.core core).overrun = true ∧ t.mem = s.mem ∧
      ∃ q, partAt t p.num q ∧ (p.overrun.toNat < q.overrun.toNat ∨ 0xFFFFFFFF ≤ q.overrun.toNat)) ∧
  (∀ core s (o : VarOp) p, s.isDet core = true → (s.core core).overrun = false → (s.core core).ops.any (fun x => x.id == o.id && x.padded && x.rem == 0) = true →
    s.partOf core = some p → partAt s p.num p → NMap.get? s.cores core ≠ none → p.overrun.toNat ≤ 0xFFFFFFFF →
    ∃ t q, exec (.paddingOverrun core o.id) s = .next t ∧ (t.core core).overrun = true ∧ partAt t p.num q ∧
      q.overrun.toNat = Nat.min 0xFFFFFFFF (p.overrun.toNat + 1) ∧ t.mem = s.mem) ∧
  (∀ core s id, s.isDet core = true → s.padDue core id = false → ∃ t, exec (.paddingOverrun core id) s = .next t ∧ id ∈ (t.core core).lates ∧
    { t.core core with lates := [] } = { s.core core with lates := [] } ∧ t.parts = s.parts ∧ t.mem = s.mem) ∧
  (∀ core s, ∃ t, exec (.overrunHoldEnd core) s = .next t ∧ OtherCores s t core ∧ t.mem = s.mem ∧
    (s.dataLate core = false → t.core core = { s.core core with overrun := false }) ∧ (s.lateDue core = [] → s.dataLate core = true → t = s) ∧
    (s.lateDue core ≠ [] → t.core core = { s.core core with lates := (s.core core).lates.filter (fun id => !((s.lateDue core).contains id)) })) ∧
  (∀ cluster s k gid g, NMap.get? s.clusters cluster = some k → k.grid = some gid → s.grid? gid = some g →
    ∃ t g', exec (.barrierUnitError ⟨cluster, false⟩) s = .next t ∧ Sent s t (.barfault gid) ∧ t.grid? gid = some g' ∧ g'.err = (if g.err = 0 then 0x11 else g.err) ∧ g'.killed = true ∧
      (t.cluster cluster).health.uce = Nat.min 65535 (k.health.uce + 1) ∧ (∀ x ∈ (t.cluster cluster).copies, x.grid ≠ gid) ∧ t.mem = s.mem) ∧
  (∀ cluster s, ∃ t, exec (.barrierUnitError ⟨cluster, true⟩) s = .next t ∧ (t.cluster cluster).seqBad = true ∧
    (t.cluster cluster).health.uce = Nat.min 65535 ((s.cluster cluster).health.uce + 1) ∧ t.grids = s.grids ∧ t.cores = s.cores ∧ t.mem = s.mem)

/-! ### Grids, blocks and partitions -/

/-- R41, R47, R142, R150, R207, R282, R312, R315, R316, R319, R324, R325, R327, R348: a gang that fits starts on its cores; a wave whose lanes have exited and whose writes have landed leaves its
slot; a finished grid leaves, with its clusters free; partitions and contexts are accepted or refused, scrubbed and freed, without the rails not answered (R346); a request for BREQ held over a launch, and held RWD
registers (R8), are written as it ends. The checks of a partition request and the time of a wave's registers are the model's readings (assumptions 52 and 59), and so
is how a restore reads a save area and reports one it refuses (assumptions 10 and 87), and whose tags a core with several blocks keeps (assumption 86). -/
def Obligations.GridEvents : Prop :=
  (∀ grid s g l, (s.updGrid grid (fun g => { g with armed := true })).grid? grid = some g → (s.updGrid grid (fun g => { g with armed := true })).nextGang g = some l →
    ∃ t g', exec (.blockPlacement grid) s = .next t ∧ t.grid? grid = some g' ∧ g'.next = g.next + l.length ∧ g'.gangs = g.gangs ++ [(g.next, l.length)] ∧ t.mem = s.mem ∧ t.parts = s.parts) ∧
  (∀ core wave s w, s.wave? core wave = some w → w.exited = true → w.drain = [] → s.writesOpen core w.uid = false → w.grid ≠ 0 → isCmdCore core = false → (s.core core).queues = [] →
    ∃ t, exec (.waveEnd core wave) s = .next t ∧ t.wave? core wave = none ∧ t.mem = s.mem ∧ (∀ x, x ≠ wave → t.wave? core x = s.wave? core x) ∧ OtherCores s t core) ∧
  (∀ grid s g, s.grid? grid = some g → s.gridDone g = true → ∃ t, exec (.gridEnd grid) s = .next t ∧ t.grid? grid = none ∧
    (∀ e ∈ t.clusters, e.2.grid ≠ some grid) ∧ (∀ x ∈ t.grids, x ∈ s.grids) ∧
    (∀ c k v, NMap.get? s.clusters c = some k → k.grid = some grid → k.breqNext = some v → ∃ k', NMap.get? t.clusters c = some k' ∧ k'.boost.getLsbD 0 = v ∧
      k'.boost.getLsbD 1 = k.boost.getLsbD 1 ∧ k'.breqNext = none) ∧
    (∀ p, partAt s g.part p → p.keepsGrids = false → (∀ x ∈ s.grids, x.part = g.part → x.id = grid) → ∃ q, partAt t g.part q ∧ q.held = [] ∧
      ∀ v, (p.held = [(0x105, v)] → q.slice = v) ∧ (p.held = [(0x106, v)] → q.epoch = v))) ∧
  (∀ core s g b p, s.expired core = some (g, b) → partAt s g.part p → p.saving = 0 → (s.core core).leaving = none → (∃ c, (b, c) ∈ g.gangOn b false) →
    ∃ t, exec (.quantumExpiry core) s = .next t ∧ t.mem = s.mem ∧ t.grids = s.grids ∧
      ∀ x ∈ g.gangOn b false, NMap.get? s.cores x.2 ≠ none → (t.core x.2).hold = true ∧ (t.core x.2).leaving.isSome = true) ∧
  (∀ core s b r g p, (s.core core).saved = b :: r → s.grid? b.grid = some g → s.partOf core = some p → g.waiting = false → p.saving = 0 → g.gangOn b.block true = [(b.block, core)] →
    s.canResume g (b.block, core) = true → b.waves.all (fun e => s.slotValid p (g.saveArea b.block + e.2.widx * 40960) e.2 (s.cluster (core / 8))) = true →
    let c := s.reloadCore p (g.saveArea b.block + g.waves * 40960) (g.saveArea b.block + (g.waves * 40 + 64) * 1024)
      { (s.core core) with queues := b.queues, scratch := b.scratch, rows := b.rows, tags := b.tags, tagerr := b.tagerr }
    ∃ t, exec (.blockResume core) s = .next t ∧ (g.perCore = 1 → (t.core core).tags = c.tags ∧ (t.core core).tagerr = c.tagerr) ∧
      (g.perCore ≠ 1 → (t.core core).tags = (s.core core).tags ∧ (t.core core).tagerr = (s.core core).tagerr) ∧ (t.core core).scratch = c.scratch ∧
      (t.core core).ops = (s.core core).ops ++ b.ops ∧ t.mem = s.mem) ∧
  (∀ core s b r g p, (s.core core).saved = b :: r → s.grid? b.grid = some g → s.partOf core = some p → g.waiting = false → p.saving = 0 →
    (g.gangOn b.block true).all (fun x => s.canResume g x) = true →
    b.waves.all (fun e => s.slotValid p (g.saveArea b.block + e.2.widx * 40960) e.2 (s.cluster (core / 8))) = false →
    exec (.blockResume core) s = .next (s.gridErr g.id 0x12)) ∧
  (∀ (r : AllocReq) s,
    let cs := (List.range 96).filter (fun c => ((r.islands.flatMap (fun i => (List.range 4).map (fun k => 4 * i + k))).filter (fun c => !(s.pack.retired.contains c))).contains c)
    ∃ t, exec (.partitionAllocation r) s = .next t ∧
      (s.pack.power = .off → t = s) ∧ (s.pack.power ≠ .off → s.allocOk r cs = false → t = s.emit (.refused r.slot)) ∧
      (s.allocOk r cs = true → partAt t r.slot (Part.new r cs) ∧ Sent s t (.accepted r.slot) ∧ t.cores = s.cores ∧
        (∀ a, a < r.cisLen → Memory.rd t.mem.home (cisternBase + r.cisBase + a) = 0#8) ∧
        (NMap.getD t.pack.banks EBank.zero r.slot) = { EBank.zero with seq := (NMap.getD s.pack.banks EBank.zero r.slot).seq, gap := (NMap.getD s.pack.banks EBank.zero r.slot).gap, alloc := s.pack.ns } ∧
        ∃ dt, dt < scrubTicks ∧ (s.now + dt, Instr.scrubCompletion r.slot) ∈ t.inputs)) ∧
  (∀ part s p, partAt s part p → p.scrub.isSome = true → ∃ t, exec (.scrubCompletion part) s = .next t ∧ partAt t part { p with scrub := none } ∧ t.mem = s.mem ∧
    ∀ c ∈ p.allCores, NMap.get? s.cores c ≠ none → t.core c = Core.reset) ∧
  (∀ part s p, partAt s part p → ∃ t, exec (.partitionFree part) s = .next t ∧ NMap.get? t.parts part = none ∧ (∀ g ∈ t.grids, g.part ≠ part) ∧ t.mem = s.mem ∧
    ∀ b, NMap.get? s.pack.banks part = some b → NMap.get? t.pack.banks part = some { b with freed := true }) ∧
  (∀ (r : CtxReq) s, s.pack.power = .off → exec (.contextCreation r) s = .next s) ∧
  (∀ (r : CtxReq) s p, s.pack.power ≠ .off → partAt s r.part p → ∃ t, exec (.contextCreation r) s = .next t ∧
    (r.ctx ≠ p.ctxs.length ∨ 16 ≤ p.ctxs.length ∨ r.saveBase.toNat % 4096 ≠ 0 → t = s.emit (.refused r.part)) ∧
    (r.ctx = p.ctxs.length → p.ctxs.length < 16 → r.saveBase.toNat % 4096 = 0 → r.restore = true → s.stored p r = none → t = s.emit (.ctxbad r.part r.ctx)) ∧
    (r.ctx = p.ctxs.length → p.ctxs.length < 16 → r.saveBase.toNat % 4096 = 0 → r.restore = false → Sent s t (.accepted r.part) ∧
      ∃ q, partAt t r.part q ∧ q.ctxs = p.ctxs ++ [⟨r.ctx, r.entry, r.saveBase, 0, none, false, r.bey⟩] ∧ q.clusters = p.clusters ∧ q.run = p.run) ∧
    (∀ c, r.ctx = p.ctxs.length → p.ctxs.length < 16 → r.saveBase.toNat % 4096 = 0 → r.restore = true → s.stored p r = some c → Sent s t (.accepted r.part) ∧
      ∃ q, partAt t r.part q ∧ q.ctxs = p.ctxs ++ [c] ∧ q.clusters = p.clusters ∧ q.run = p.run) ∧
    (((vaLoad s.mem p r.saveBase.toNat 8).getD 0).testBit 0 = false → s.stored p r = none)) ∧
  (∀ part s p c, partAt s part p → p.num = part → p.run = none → p.saving = 0 → p.thermal = false → p.scrub = none → s.running part = false → p.next.bind (fun c => p.ctxs[c]?) = some c → c.save = none →
    ∃ t q, exec (.contextSwitch part) s = .next t ∧ partAt t part q ∧ q.run = some c.num ∧ q.next = none ∧ q.ctxbase = c.base ∧ q.since = s.timeNs ∧ t.mem = s.mem ∧
      (NMap.get? s.cores (768 + p.cmd) ≠ none → (t.core (768 + p.cmd)).waves = [(0, p.stream s.nextId c)])) ∧
  (∀ part s p, partAt s part p → p.num = part → p.saving = 0 → p.run.isSome = true → s.forcedDue p = true →
    ∃ t q, exec (.forcedSave part) s = .next t ∧ partAt t part q ∧ q.saving = 2 ∧ q.saveSeq = p.saveSeq + 1 ∧ ∀ c ∈ p.everyCore, NMap.get? s.cores c ≠ none → (t.core c).hold = true)

/-! ### Power, energy and resets -/

/-- R340 to R347, Tables 16.1 to 16.3, 16.10 and 16.11: the power limit's averages, the throttle step, boost permits and arming: at a boundary each eligible cluster with a request that may be armed claims a permit, those
above the last served first, and runs at 1,120 MHz with one and at 1,030 MHz without; slopes and floors, thermal thresholds and polls. What a field out of its range does is the model's reading (assumption 55). -/
def Obligations.PowerEvents : Prop :=
  (∀ avg peak s, ∃ t, exec (.powerAverageWindow avg peak) s = .next t ∧ OnlyPack s t ∧ (t.pack.overLim = true ↔ s.pack.plim < avg) ∧
    (t.pack.underLim = true ↔ 100 * avg ≤ 95 * s.pack.plim) ∧ t.pack.plim = s.pack.plim) ∧
  (∀ c s k, NMap.get? s.clusters c = some k → ∃ t, exec (.clockStepChange c) s = .next t ∧ NMap.get? t.clusters c = some { k with mhz := k.newMhz.getD k.mhz, newMhz := none } ∧ t.mem = s.mem ∧ t.cores = s.cores) ∧
  (∀ s c k, s.pack.overLim = true → c < 96 → s.pack.retired.contains c = false → NMap.get? s.clusters c = some k → k.target ∈ ladder → 470 < k.target →
    ∃ t k', exec .throttleStep s = .next t ∧ NMap.get? t.clusters c = some k' ∧ k'.target = stepDown k.target ∧ k'.thr = true ∧ t.mem = s.mem ∧ t.cores = s.cores) ∧
  (∀ v s, ∃ t, exec (.pwrctlWrite v) s = .next t ∧ OnlyPack s t ∧ t.pack.last = s.pack.last ∧ t.pack.count = Nat.min s.pack.count t.pack.cap ∧
    (400 ≤ bitsNat v.toNat 44 12 → t.pack.plim = Nat.min 2000 (bitsNat v.toNat 44 12)) ∧
    (1 ≤ bitsNat v.toNat 30 7 → bitsNat v.toNat 30 7 ≤ 64 → t.pack.rearm = bitsNat v.toNat 30 7) ∧ (bitsNat v.toNat 23 7 ≤ 64 → t.pack.cap = bitsNat v.toNat 23 7)) ∧
  (∀ c v s k, NMap.get? s.clusters c = some k → k.grid ≠ none → ∃ t, exec (.boostWrite c v) s = .next t ∧
    NMap.get? t.clusters c = some { k with breqNext := some (v.getLsbD 0) } ∧ t.mem = s.mem ∧ t.cores = s.cores) ∧
  (∀ c v s k, NMap.get? s.clusters c = some k → k.grid = none → ∃ t k', exec (.boostWrite c v) s = .next t ∧ NMap.get? t.clusters c = some k' ∧ k'.breq = v.getLsbD 0 ∧ k'.boost.getLsbD 1 = k.armed ∧
    { k' with boost := 0#64 } = { k with boost := 0#64, breqNext := none } ∧ t.mem = s.mem) ∧
  (∀ s, (s.compute.all (fun c => !(s.eligible c) && decide ((s.cluster c).target ≤ 940))) = true → s.timeNs / 4000 % 4 ≠ 0 →
    ∃ t, exec .boostIntervalBoundary s = .next t ∧ t.pack = s.pack ∧ t.mem = s.mem ∧ t.cores = s.cores ∧
      ∀ c k, c ∈ s.compute → NMap.get? s.clusters c = some k → ∃ k', NMap.get? t.clusters c = some k' ∧ k'.armed = false ∧ k'.boost.getLsbD 1 = false) ∧
  (∀ s, (∀ c ∈ s.compute, NMap.get? s.clusters c ≠ none) →
    let pool := boostPool s
    let claims := s.compute.filter (claimsBoost s pool)
    let order := claims.filter (fun c => decide (s.pack.last < c)) ++ claims.filter (fun c => decide (c ≤ s.pack.last))
    ∃ t, exec .boostIntervalBoundary s = .next t ∧ t.pack.count = pool - order.length ∧ t.pack.last = ((order.take pool).getLast?).getD s.pack.last ∧ t.mem = s.mem ∧ t.cores = s.cores ∧
      (∀ c ∈ order.take pool, (t.cluster c).armed = true ∧ (t.cluster c).boost.getLsbD 1 = true ∧ (t.cluster c).target = 1120) ∧
      (∀ c ∈ order.drop pool, (t.cluster c).armed = false ∧ (t.cluster c).denied = true ∧ (t.cluster c).boost.getLsbD 1 = false ∧ (t.cluster c).target = 1030) ∧
      (∀ c ∈ s.compute, c ∉ order → (t.cluster c).target = Nat.min 940 (s.cluster c).target ∧ (s.eligible c = false → (t.cluster c).armed = false) ∧
        (s.eligible c = true → (t.cluster c).armed = (s.cluster c).armed ∧ (t.cluster c).denied = (s.cluster c).denied))) ∧
  (∀ c v s part p, partAt s part p → p.clusters.contains c = true → s.launched part = true → exec (.islopeWrite c v) s = .next s) ∧
  (∀ c v s k, NMap.get? s.clusters c = some k → k.grid = none → (∀ e ∈ s.parts, e.2.clusters.contains c = true → s.launched e.1 = false) →
    ∃ t k', exec (.islopeWrite c v) s = .next t ∧ NMap.get? t.clusters c = some k' ∧ t.mem = s.mem ∧
    bitsNat k'.islope.toNat 8 8 = Nat.max (bitsNat v.toNat 8 8) (bitsNat (s.floorOf c).toNat 8 8) ∧
    bitsNat k'.islope.toNat 0 8 = Nat.min (Nat.max 1 (bitsNat v.toNat 0 8)) (Nat.max 1 (bitsNat (s.floorOf c).toNat 0 8))) ∧
  (∀ n v s, n < 24 → ∃ t, exec (.islflrWrite n v) s = .next t ∧ OnlyPack s t ∧ NMap.get? t.pack.islflr n = some (v &&& 0xFFFF#64)) ∧
  (∀ n v s k, n < 128 → NMap.get? s.pack.sensors n = some k → ∃ t, exec (.thrmWrite n v) s = .next t ∧
    let w := bitsNat v.toNat 18 10
    let h := bitsNat v.toNat 28 10
    let r := bitsNat v.toNat 38 10
    (¬ (w < h ∧ h < r) → t = s) ∧ (w < h → h < r → OnlyPack s t ∧ ∃ k', NMap.get? t.pack.sensors n = some k' ∧ k'.warn = w ∧ k'.throt = h ∧ k'.trip = r ∧ k'.hyst = bitsNat v.toNat 48 8 ∧ k'.level = k.level)) ∧
  (∀ (k : Sensor) temp, k.next temp = levelAfter k temp) ∧
  (∀ temps s n k, s.pack.power ≠ .off → n < 128 → NMap.get? s.pack.sensors n = some k → ∃ t k', exec (.thermalPoll temps) s = .next t ∧ NMap.get? t.pack.sensors n = some k' ∧
    k'.level = levelAfter k (temps.getD n k.temp) ∧ k'.warn = k.warn ∧ k'.throt = k.throt ∧ k'.trip = k.trip ∧
    (levelAfter k (temps.getD n k.temp) = 3 → k.level < 3 → t.pack.power = .off))

/-- R332, R348 to R358: a span divides the energy of each pool by the weights of Table 16.4, each share rounded down and the remainder carried on, into the subcounter
the table names and into TOTAL; what no partition is given goes to the unattributed counter. TOTAL stays the sum of the subcounters over every event that writes a bank. Commits write the nonvolatile record, a signed reading numbers itself and shows GAP once; reports and predictions; resets end every
partition and grid and count; the control store is replaced only by a version not below the stored one; power loss marks the gap. Signatures are opaque (assumption 15), the control store's form is the model's (assumption 16), what an hour's
measurements carry is its reading (assumption 56), and the time base goes on over a reset by its reading (assumption 60). -/
def Obligations.EnergyAndResets : Prop :=
  (∀ m s, ∃ t, exec (.energySpan m) s = .next t ∧ t = { s with pack := t.pack, parts := s.parts.map (fun e => (e.1, { e.2 with busyNs := 0 })) } ∧ t.pack.power = s.pack.power ∧ t.pack.ns = s.pack.ns ∧ t.pack.out = s.pack.out) ∧
  (∀ (p : Pack) pool nj k ws, sumNat (ws.map (·.2)) = 0 → 1000 * (p.share pool nj k ws).unattr + NMap.getD (p.share pool nj k ws).rem 0 pool =
    1000 * p.unattr + NMap.getD p.rem 0 pool + nj ∧ NMap.getD (p.share pool nj k ws).rem 0 pool < 1000) ∧
  (∀ m s, NMap.sorted s.parts = true → (∀ i, i < 24 → ∀ a ∈ s.parts, ∀ b ∈ s.parts, a.2.islands.contains i = true → b.2.islands.contains i = true → a = b) →
    ∃ t, exec (.energySpan m) s = .next t ∧
      (∀ n q b, NMap.get? s.parts n = some q → NMap.get? s.pack.banks n = some b → ∃ b', NMap.get? t.pack.banks n = some b' ∧
        (∀ k, subOf b' k % 2 ^ 64 = (subOf b k + (((List.range 30).filter (fun pool => poolCtr pool == k)).map (fun pool => poolShare s m pool n q)).sum) % 2 ^ 64) ∧
        b'.total % 2 ^ 64 = (b.total + ((List.range 30).map (fun pool => poolShare s m pool n q)).sum) % 2 ^ 64 ∧
        b'.seq = b.seq ∧ b'.alloc = b.alloc ∧ b'.freed = b.freed ∧ b'.gap = b.gap) ∧
      (∀ n, NMap.get? s.parts n = none → NMap.get? t.pack.banks n = NMap.get? s.pack.banks n) ∧
      (∀ pool, pool < 30 → NMap.getD t.pack.rem 0 pool = if poolTotal s m pool = 0 then poolNj s m pool % 1000
        else poolNj s m pool - 1000 * (s.parts.map (fun e => poolShare s m pool e.1 e.2)).sum) ∧
      t.pack.unattr = s.pack.unattr + ((List.range 30).map (fun pool => if poolTotal s m pool = 0 then poolNj s m pool / 1000 else 0)).sum) ∧
  (BanksSum State.reset.pack ∧ ∀ ins s t, writesBanks ins = true → BanksSum s.pack → exec ins s = .next t → BanksSum t.pack) ∧
  (∀ s, s.pack.power ≠ .on → exec .energyCommit s = .next s) ∧
  (∀ s, s.pack.power = .on → ∃ t, exec .energyCommit s = .next t ∧ t.pack.nv.resets = s.pack.resets ∧ t.pack.nv.banks = t.pack.banks ∧ t.pack.nv.health = s.clusters.map (fun e => (e.1, e.2.health)) ∧
    t.clusters = s.clusters ∧ t.grids = s.grids) ∧
  (∀ part nonce s, part < 8 → s.pack.power = .on → ∃ t, exec (.signedReadingRequest part nonce) s = .next t ∧ OnlyPack s t ∧
    (let b := NMap.getD s.pack.banks EBank.zero part
     NMap.get? t.pack.banks part = some { b with seq := b.seq + 1, gap := false } ∧ Sent s t (.reading (s.pack.reading part { b with seq := b.seq + 1 })))) ∧
  (∀ nonce s, s.pack.power = .on → ∃ t body, exec (.attestationRequest nonce) s = .next t ∧ OnlyPack s t ∧ body = [nonce % 2 ^ 256] ++ s.pack.hashes ++ [s.pack.csver.toNat] ++ s.pack.retired ++ [s.pack.eolpred.toNat, s.pack.resets, s.pack.ns] ∧
    Sent s t (.report (body ++ [Config.sign body]))) ∧
  (∀ vals drifts errs hbm s, ∃ t, exec (.eolPrediction ⟨vals, drifts, errs, hbm⟩) s = .next t ∧ t = { s with pack := t.pack, clusters := t.clusters } ∧
    bitsNat t.pack.eolpred.toNat 46 10 = vals.getD 0 0 % 1024 ∧
    bitsNat t.pack.eolpred.toNat 32 8 = (if s.pack.seasoned then Nat.min 100 (vals.getD 2 0) else 0) ∧
    (∀ c k, NMap.get? s.clusters c = some k → NMap.get? t.clusters c = some { k with health := { k.health with
      drift := drifts.getD c k.health.drift % 65536, ce := Nat.min 65535 (k.health.ce + errs.getD c 0) } }) ∧
    (vals.getD 3 0 ≤ 10000 → bitsNat t.pack.eolpred.toNat 0 32 = vals.getD 3 0) ∧ (10000 < vals.getD 3 0 → bitsNat t.pack.eolpred.toNat 0 32 = 0xFFFFFFFF)) ∧
  (∀ eyes s n x, NMap.get? s.pack.stations n = some x → ∃ t, exec (.eyeMarginMeasurement eyes) s = .next t ∧ OnlyPack s t ∧ NMap.get? t.pack.stations n = some { x with eye := eyes.getD n x.eye % 65536 }) ∧
  (∀ (b : BootIn) s, ∃ t, exec (.coldReset b) s = .next t ∧ t.parts = [] ∧ t.grids = [] ∧ t.cores = State.reset.cores ∧ t.issue = none ∧ t.pack.resets = s.pack.resets + 1 ∧ t.pack.ns = s.pack.ns ∧ t.now = s.now ∧
    (t.pack.power = (if verified b s.pack.rollback then .on else .recovery)) ∧ (∀ n k, NMap.get? t.pack.sensors n = some k → k.level = 0)) ∧
  (∀ (b : BootIn) s, s.pack.power ≠ .off → (∀ n, n < 128 → s.level n ≠ 3) → ∃ t u, exec (.warmReset b) s = .next t ∧ t.parts = [] ∧ t.grids = [] ∧ t.issue = none ∧ t.pack.resets = s.pack.resets + 1 ∧
    exec (.watchdogReset b) s = .next u ∧ u.parts = [] ∧ u.grids = [] ∧ u.issue = none ∧ u.pack.resets = s.pack.resets + 1) ∧
  (∀ (b : BootIn) s n, n < 128 → s.level n = 3 → exec (.warmReset b) s = .next s) ∧
  (∀ version x s, s.pack.power = .off → exec (.controlStoreUpdate version x) s = .next s) ∧
  (∀ version store signed s, s.pack.power ≠ .off → ∃ t, exec (.controlStoreUpdate version ⟨store, signed⟩) s = .next t ∧ OnlyPack s t ∧
    let stored := match s.pack.csNext, s.pack.nv.cs with | some x, _ => x.1 | none, some x => x.1 | none, none => 0
    (signed = false ∨ version < stored → t.pack.csNext = s.pack.csNext ∧ t.pack.cstore = s.pack.cstore ∧ Sent s t (.refused version)) ∧
    (signed = true → stored ≤ version → t.pack.csNext = some (version % 2 ^ 32, store) ∧ t.pack.cstore = s.pack.cstore ∧ Sent s t (.accepted version))) ∧
  (∀ s, s.pack.power ≠ .off → ∃ t, exec .powerLoss s = .next t ∧ OnlyPack s t ∧ t.pack.power = .off ∧ t.pack.banks = s.pack.banks ∧
    ∀ n b, NMap.get? s.pack.nv.banks n = some b → NMap.get? t.pack.nv.banks n = some { b with gap := true })

/-! ### Registers and the host -/

/-- R7, R8, R156, R172, R281, R284, R286 to R288, R290, R291, R293, R294, R312, R339, R368 to R372, R386: register writes by Table 15.1, invalidations, the companion's accesses, the time base, image loads and
replacements. A code section that an image is placed over, be it in part, is gone by the model's choice, with what was translated of it (assumption 109). A launch that a saved context keeps counts as running for RWL and RWD
by the model's choice (assumption 95), and an image that cannot be read is LOADRANGE by its choice (assumption 108). That a load is one step, so that IMGLOAD [63] never reads 1, is the model's choice (assumption 18). Which writes of a format range are refused (assumption 67) and what a load maps (assumption 39) are the model's readings. -/
def Obligations.RegisterAndHostEvents : Prop :=
  (∀ part v s p, partAt s part p → ∃ t q, exec (.ptrootWrite part v) s = .next t ∧ partAt t part q ∧ t.mem = s.mem ∧ t.cores = s.cores ∧
    (s.launched part = true → q.ptroot = p.ptroot ∧ NMap.get? q.held 0x110 = some v) ∧ (s.launched part = false → q.ptroot = v &&& 0x000FFFFFFFFFF001#64)) ∧
  (∀ part n v s, ∃ t, exec (.registerWrite part n v) s = .next t ∧ CmdWritten s t part n v) ∧
  (∀ part v s p, partAt s part p → ∃ t q, exec (.intraiseWrite part v) s = .next t ∧ partAt t part q ∧ q = { p with intPend := p.intPend ||| v } ∧ t.mem = s.mem ∧ t.cores = s.cores) ∧
  (∀ part n s p, partAt s part p → n < 64 → ∃ t q, exec (.interruptAcknowledge part n) s = .next t ∧ partAt t part q ∧ q.intPend.getLsbD n = false ∧
    (∀ k, k ≠ n → q.intPend.getLsbD k = p.intPend.getLsbD k) ∧ t.mem = s.mem ∧ t.cores = s.cores) ∧
  (∀ part v s p, partAt s part p → ∃ t q, exec (.rangeInvalidation part v) s = .next t ∧ partAt t part q ∧ q.invlen = v &&& 0xFFFFFFFF#64 ∧ q.invBusy = true ∧ q.inva = p.inva ∧ t.mem = s.mem ∧
    ∃ at', s.now ≤ at' ∧ (at', Instr.invalidationCompletion part) ∈ t.inputs) ∧
  (∀ part s p, partAt s part p → p.invBusy = true → s.oldAccess p = false → ∃ t, exec (.invalidationCompletion part) s = .next t ∧ partAt t part { p with invBusy := false } ∧ t.mem = s.mem ∧
    (∀ c k e, NMap.get? t.cores c = some k → e ∈ k.utlb → e.part = p.num → p.invRange e.vbase e.len = false)) ∧
  (∀ j v s, ∃ t, exec (.sstgWrite j v) s = .next t ∧ NMap.get? t.mem.sstg j = some (v &&& 0x000FFFFFFFE00F03#64) ∧ t.cores = s.cores ∧
    ((∀ e ∈ s.mem.l2, isCarrier (e.1 * 256) = false) → t.mem.home = s.mem.home) ∧
    (stageBytes ((NMap.get? s.mem.sstg j).getD 0#64) = 0 → ∀ a, a < 2 ^ 21 → Memory.rd t.mem.stg (j * 2 ^ 21 + a) = 0#8)) ∧
  (∀ part which k v s p, partAt s part p → s.launched part = true → which ≠ 0 → exec (.frrWrite part which k v) s = .next s) ∧
  (∀ part which k v s p f, partAt s part p → NMap.get? s.mem.frr k = some f → f.en = true → p.owns f.sbase (f.sbase + f.len) = false →
    exec (.frrWrite part which k v) s = .next s) ∧
  (∀ part k v s p, partAt s part p → s.launched part = true → ((NMap.get? s.mem.frr k).getD ⟨0#64, 0#64, 0#64⟩).en = false →
    ∃ t, exec (.frrWrite part 0 k v) s = .next t ∧
    NMap.get? t.mem.frr k = some { ((NMap.get? s.mem.frr k).getD ⟨0#64, 0#64, 0#64⟩) with a := ((NMap.get? s.mem.frr k).getD ⟨0#64, 0#64, 0#64⟩).a ||| 2#64 } ∧ t.mem.home = s.mem.home ∧ t.cores = s.cores) ∧
  (∀ part k v s p, partAt s part p → s.launched part = false → ((NMap.get? s.mem.frr k).getD ⟨0#64, 0#64, 0#64⟩).en = false →
    (∀ e ∈ s.mem.l2, isCarrier (e.1 * 256) = false) →
    let old : Frr := (NMap.get? s.mem.frr k).getD ⟨0#64, 0#64, 0#64⟩
    let new : Frr := { old with a := v &&& 0x000FFFFFFFFFFF01#64 }
    ∃ t, exec (.frrWrite part 0 k v) s = .next t ∧ t.mem.home = s.mem.home ∧
      (s.mem.frrOk p k new = true → (new.en = true → (b8Of new.fmt).isSome = true) → NMap.get? t.mem.frr k = some new) ∧
      (s.mem.frrOk p k new = false ∨ (new.en = true ∧ b8Of new.fmt = none) →
        NMap.get? t.mem.frr k = some { old with a := (old.a &&& ~~~ 1#64) ||| 2#64 })) ∧
  (∀ part v s, ∃ t, exec (.imgloadWrite part v) s = .next t ∧ t.cores = s.cores ∧ t.clusters = s.clusters ∧ t.grids = s.grids ∧ t.pack = s.pack ∧
    ∀ p, partAt s part p → ∃ q, partAt t part q ∧ q.imgload = v ∧ q = { p with imgload := v, imgstat := q.imgstat, codes := q.codes, transl := q.transl } ∧
      (q.imgstat ≠ 0#64 → t.mem = s.mem ∧ q.codes = p.codes ∧ q.transl = p.transl)) ∧
  (∀ part v s p, partAt s part p →
    let size := (vaLoad s.mem p (v.toNat + 0x20) 8).getD 64
    let b := (vaBytes s.mem p (size / 128 + 8) v.toNat (Nat.max size 64)).getD []
    let places := sectAddrs p.imgdst.toNat (imgSects b)
    64 ≤ b.length → ∃ t q, exec (.imgloadWrite part v) s = .next t ∧ partAt t part q ∧
      (∀ e, imgError s.mem p (s.pack.csver.toNat % 2 ^ 32) b places = some e → q.imgstat = BitVec.ofNat 64 (e.1 + 2 ^ 16 * e.2)) ∧
      (imgError s.mem p (s.pack.csver.toNat % 2 ^ 32) b places = none → q.imgstat = 0#64 ∧
        (let laid : Nat → Nat → Prop := fun a n => ∃ (k : Nat) (x : Sect) (c : Nat), (imgSects b)[k]? = some x ∧ places[k]? = some (some c) ∧ c < a + n ∧ a < c + x.size
         (∀ x, x ∈ q.codes ↔ (x ∈ p.codes ∧ ¬ laid x.base x.len) ∨ ∃ (k : Nat) (y : Sect), (imgSects b)[k]? = some y ∧ places[k]? = some (some x.base) ∧
           (y.kind = 1 ∨ y.kind = 2) ∧ x = CodeSec.mk x.base y.size (y.kind == 2)) ∧ (∀ x, x ∈ q.transl ↔ x ∈ p.transl ∧ ¬ laid (8 * x.bpc) (8 * x.len))) ∧
        (∀ (k : Nat) (x : Sect) (a : Nat), (imgSects b)[k]? = some x → places[k]? = some (some a) → a % 2 ^ x.align = 0 ∧ p.imgdst.toNat ≤ a ∧ x.placed = true ∧
          (x.kind = 1 ∨ x.kind = 2 → CodeSec.mk a x.size (x.kind == 2) ∈ q.codes) ∧
          ∀ (j : Nat) (y : Sect) (c : Nat), k < j → (imgSects b)[j]? = some y → places[j]? = some (some c) → a + x.size ≤ c) ∧
        (∀ (x : Sect) (a pa : Nat) e m, imgSects b = [x] → places = [some a] → x.kind ≠ 8 → x.kind ≠ 9 → 0 < x.size → x.off + x.size ≤ b.length → a % 256 + x.size ≤ 256 →
          walkAll s.mem p a = .ok pa e → s.mem.store pa x.size (leNat ((b.drop x.off).take x.size)) = some m →
          (x.kind ≠ 1 → x.kind ≠ 2 → t.mem = m.noteWrite pa .cg) ∧
          (x.kind = 1 ∨ x.kind = 2 → ∀ l y m', leafOf (m.noteWrite pa .cg) p (65536 * (a / 65536)) = some l → (m.noteWrite pa .cg).load l 8 = some y →
            (m.noteWrite pa .cg).store l 8 ((if y.testBit 3 then y - 8 else y) + (if y.testBit 4 then 0 else 16)) = some m' → t.mem = m')))) ∧
  (∀ part v s p, partAt s part p → vaBytes s.mem p 2 v.toNat 4 = none → vaBytes s.mem p 2 (v.toNat + 4) 2 = none → (((vaBytes s.mem p (((vaLoad s.mem p (v.toNat + 0x20) 8).getD 64) / 128 + 8) v.toNat (Nat.max ((vaLoad s.mem p (v.toNat + 0x20) 8).getD 64) 64)).getD []).length < 64) →
    ∃ t, exec (.imgloadWrite part v) s = .next t ∧ partAt t part { p with imgload := v, imgstat := 3#64 } ∧ t.mem = s.mem) ∧
  (∀ (a : HostAcc) s p, s.pack.hinge = true → partAt s a.part p → ∃ t, exec (.companionDeviceAccess a) s = .next t ∧
    (p.inWindow a.addr a.len = false → t = s.emit .error) ∧
    (p.inWindow a.addr a.len = true → a.write = false → ∀ b, s.mem.stackBytes a.addr a.len = some b → t = s.emit (.data b)) ∧
    (p.inWindow a.addr a.len = true → a.write = true → ∀ u, s.homeBytes a.addr (a.data.take a.len) = some u → t = u.emit (.data []))) ∧
  (∀ (a : HostAcc) s p, s.pack.hinge = true → partAt s a.part p → ∃ t, exec (.companionCisternAccess a) s = .next t ∧
    (p.cisLen < a.addr + a.len → t = s.emit .error) ∧
    (a.addr + a.len ≤ p.cisLen → a.write = false → t = s.emit (.data (Memory.bytes s.mem.home (cisternBase + p.cisBase + a.addr) a.len))) ∧
    (a.addr + a.len ≤ p.cisLen → a.write = true → (∀ u, s.homeBytes (cisternBase + p.cisBase + a.addr) (a.data.take a.len) = some u → t = u.emit (.data [])) ∧
      (s.homeBytes (cisternBase + p.cisBase + a.addr) (a.data.take a.len) = none → t = s.emit .error))) ∧
  (∀ addr len part s p, s.pack.hinge = true → partAt s part p → ∃ t, exec (.hostFlushCommand addr len part) s = .next t ∧ (p.inWindow addr len = false → t = s.emit .error) ∧
    (p.inWindow addr len = true → Sent s t (.flushDone addr len) ∧ t.cores = s.cores)) ∧
  (∀ ns s, s.pack.hinge = true → ∃ t, exec (.timeTransfer ns) s = .next t ∧ t = { s with pack := t.pack, inputs := t.inputs } ∧ t.pack.stepped = true ∧ t.pack.xfer = some s.now ∧
    (∀ e ∈ s.inputs, e ∈ t.inputs) ∧ (∃ w, (w, Instr.timeInputLoss) ∈ t.inputs) ∧
    (s.pack.stepped = true ∨ s.pack.served = true → t.pack.tsync = if ((ns : Int) - s.pack.ns).natAbs ≤ 5 then 2 else 1) ∧
    (s.pack.stepped = false → s.pack.served = false → t.pack.ns = ns % 2 ^ 64 ∧ t.pack.slew = 0) ∧ (s.pack.stepped = true ∨ s.pack.served = true → t.pack.ns = s.pack.ns ∧ t.pack.slew = ((ns : Int) - s.pack.ns) * tpNs)) ∧
  (∀ s, s.pack.xfer = none → exec .timeInputLoss s = .next s) ∧
  (∀ s x, s.pack.xfer = some x → ∃ t, exec .timeInputLoss s = .next t ∧ (x + inputTime ≤ s.now → OnlyPack s t ∧ t.pack.tsync = 3 ∧ t.pack.slew = 0) ∧
    (s.now < x + inputTime → t = { s with inputs := t.inputs } ∧ ∃ w, (w, Instr.timeInputLoss) ∈ t.inputs)) ∧
  (∀ s, ∃ u, exec .hingeLinkFailure s = .next u ∧ OnlyPack s u ∧ u.pack.hinge = false ∧ u.pack.tsync = 3) ∧
  (∀ core sec page cluster s, ∃ t u x y z, exec (.lineReplacement (.l1 core sec)) s = .next t ∧ NMap.get? (t.core core).l1 sec = none ∧ t.mem = s.mem ∧
    exec (.lineReplacement (.rdc sec)) s = .next u ∧ NMap.get? u.mem.rdc sec = none ∧ u.mem.home = s.mem.home ∧
    exec (.lineReplacement (.utlb core page)) s = .next x ∧ (∀ e ∈ (x.core core).utlb, e.vbase ≠ page) ∧ x.mem = s.mem ∧
    exec (.lineReplacement (.ctlb cluster page)) s = .next y ∧ (∀ e ∈ (y.cluster cluster).tlb, e.vbase ≠ page) ∧ y.mem = s.mem ∧
    exec (.lineReplacement (.l2 sec)) s = .next z ∧ NMap.get? z.mem.l2 sec = none ∧ (isCarrier (sec * 256) = false → z.mem.home = s.mem.home))

/-! ### The whole machine -/

/-- R65 to R85: decoding the encoding of a legal operation gives it back with every operand, in every slot it may stand in, in a Beyrum word and in
a whole bundle. -/
def Obligations.DecodeOfEncode : Prop :=
  (∀ k i, i.wfBundle = true → fitsSlot k i → decodeSlot k (encode i) = some i) ∧
  (∀ k i, i.wfBeyrum = true → fitsSlot k i → decodeWord (encodeWord k i) = some i) ∧
  (∀ b, legalBundle b → decodeBundle (encodeBundle b) = .ok b)

/-- R67, R77, R79: what is decoded is legal where it stands, and four slots with a nonzero header or one illegal slot are no bundle; the first offending
place is named, header before V, M, X and C. -/
def Obligations.DecodedIsLegal : Prop :=
  (∀ k w i, decodeSlot k w = some i → i.wfBundle = true ∧ fitsSlot k i) ∧
  (∀ w i, decodeWord w = some i → i.wfBeyrum = true) ∧
  (∀ w b, decodeBundle w = .ok b → legalBundle b ∧ bitsNat w 5 11 = 0 ∧ b.gap.toNat = bitsNat w 0 5) ∧
  (∀ w, bitsNat w 5 11 ≠ 0 → decodeBundle w = .bad .header) ∧
  (∀ w, bitsNat w 5 11 = 0 → decodeSlot .v (bitsNat w 16 60) = none → decodeBundle w = .bad .v) ∧
  (∀ w v, bitsNat w 5 11 = 0 → decodeSlot .v (bitsNat w 16 60) = some v → decodeSlot .m (bitsNat w 76 60) = none → decodeBundle w = .bad .m) ∧
  (∀ w v m, bitsNat w 5 11 = 0 → decodeSlot .v (bitsNat w 16 60) = some v → decodeSlot .m (bitsNat w 76 60) = some m → decodeSlot .x (bitsNat w 136 60) = none →
    decodeBundle w = .bad .x) ∧
  (∀ w v m x, bitsNat w 5 11 = 0 → decodeSlot .v (bitsNat w 16 60) = some v → decodeSlot .m (bitsNat w 76 60) = some m → decodeSlot .x (bitsNat w 136 60) = some x →
    decodeSlot .c (bitsNat w 196 60) = none → decodeBundle w = .bad .c)

/-- R65, R67 to R72, R77, R78: words written out from the spec's encodings, with their instructions. -/
def Obligations.DecodedWords : Prop :=
  decodeBundle 0 = .ok ⟨0#5, .nop, .nop, .nop, .nop⟩ ∧ decodeWord 0 = some .nop ∧ decodeWord (3 * 2 ^ 60) = some .nop ∧
  decodeWord (3 * 2 ^ 60 + 0x061 * 2 ^ 50) = some (.exit ⟨false, 0#3⟩) ∧
  decodeWord (3 * 2 ^ 60 + 0x010 * 2 ^ 50 + 0xFFFFFF * 2 ^ 22) = some (.br ⟨false, 0#3⟩ (-1#24)) ∧
  decodeWord (3 * 2 ^ 60 + 0x040 * 2 ^ 50 + 5) = some (.bar 5#4) ∧
  decodeWord (3 * 2 ^ 60 + 0x050 * 2 ^ 50 + 1 * 2 ^ 46 + 3) = some (.shape ⟨false, 1#3⟩ 3#3) ∧
  decodeWord (1 * 2 ^ 60 + 0x030 * 2 ^ 50) = some (.l1inv ⟨false, 0#3⟩) ∧
  decodeWord (3 * 2 ^ 60 + 0x030 * 2 ^ 50) = none ∧ decodeWord (4 * 2 ^ 60) = none

/-- R124: between steps no bundle is half executed. Every step keeps it: a bundle that issues acts with all its slots, or traps, in one step. That an issue and its slots are one step is the model's form (assumption 11). -/
def Obligations.BundlesAreWhole : Prop :=
  ∀ s t, s.quiet → step s = .next t → t.quiet

/-- The memories keep their one canonical form over every step: addresses rise, and no byte equal to what an unlisted address reads as is
listed, so equal memories are equal data. What an unlisted byte reads as is the model's choice (assumption 1). -/
def Obligations.MemoryStaysCanonical : Prop :=
  ∀ s t, s.mem.wf → step s = .next t → t.mem.wf

/-- Reset: Tables 7.2, 10.5, 13.2, 13.4, 16.1, 16.2, 16.10 and 16.11 and R207: no partition or grid, clusters at the slope S = 16, W = 8 with clear BOOST,
every accumulator and carry zero with its written bits clear, every sensor at its thresholds and hysteresis, floors at their values, no staging, every format
range register zero, no bundle half executed. Which sensor stands where is the model's choice (assumption 6). -/
def Obligations.ResetState : Prop :=
  State.reset.quiet ∧ State.reset.mem.wf ∧ State.reset.parts = [] ∧ State.reset.grids = [] ∧
  (∀ c, c < 96 → (State.reset.cluster c).islope = 0x1008#64 ∧ (State.reset.cluster c).boost = 0#64 ∧ (State.reset.cluster c).paired = false ∧
    (State.reset.cluster c).tasks = [] ∧ (State.reset.cluster c).copies = [] ∧ (State.reset.cluster c).bind = [] ∧
    (∀ a, a < 4 → ((State.reset.cluster c).marr a).acc = [] ∧ ((State.reset.cluster c).marr a).rows = [] ∧ ((State.reset.cluster c).marr a).carry = [] ∧
      ((State.reset.cluster c).marr a).cw = [])) ∧
  (∀ i, i < 24 → NMap.get? State.reset.pack.islflr i = some 0x0420#64) ∧
  (∀ n, n < 128 → ∃ k, NMap.get? State.reset.pack.sensors n = some k ∧ k.level = 0 ∧ k.hyst = 16 ∧ k.maxt = 0 ∧
    (n < 96 → k.trip = 440 ∧ k.throt = 400 ∧ k.warn = 360) ∧ (96 ≤ n → k.trip = 420 ∧ k.throt = 380 ∧ k.warn = 340)) ∧
  (∀ j, j < 128 → NMap.get? State.reset.mem.sstg j = some 0#64 ∧ NMap.get? State.reset.mem.frr j = some ⟨0#64, 0#64, 0#64⟩) ∧
  State.reset.pack.plim = 2000 ∧ State.reset.pack.rearm = 8 ∧ State.reset.pack.cap = 64 ∧ State.reset.pack.count = 64

/-- A step runs the decoded instruction: an agenda's next event runs as exec of it; when a core's turn has come its issue runs; the bundle it stages acts as exec of its V, M, X and C
slots in order, and is done. What is staged is what the code unit at the PC decodes to: four slots of a bundle, or the one operation of a Beyrum word, where no rule of the wave forbids it. The order of events and cores within an issue cycle (assumption 11) and that a PC is an absolute address (assumption 7) are the model's. -/
def Obligations.StepRunsDecoded : Prop :=
  (∀ (s t : State) i, s.nextAct = .run i t → ∀ u, exec i t = .next u → u.issue = none → step s = .next u) ∧
  (∀ (s : State) (k : Cursor) i r, s.cursor = some k → k.agenda = i :: r → s.nextAct = .run i { s with cursor := some { k with agenda := r } }) ∧
  (∀ (s : State) (k : Cursor) j core, s.cursor = some k → k.agenda = [] → s.nextCore k.cluster k.nextCore = some (j, core) →
    let s0 : State := { s with cursor := some { k with nextCore := j + 1 } }
    s.nextAct = .run (if s0.picksCarried core then .carriedOpIssue core else .bundleIssue core) s0) ∧
  (∀ (s : State) (k : Cursor) i r, s.cursor = some k → k.agenda = [] → s.nextCore k.cluster k.nextCore = none → k.late = i :: r →
    s.nextAct = .run i { s with cursor := some { k with late := r } }) ∧
  (∀ (s t : State) i (u : State) b, s.nextAct = .run i t → exec i t = .next u → u.issue = some b → u.issueHeld b = false → b.bundle.c ≠ .eretReplay →
    ∀ u1 u2 u3 u4, exec b.bundle.v u = .next u1 → exec b.bundle.m u1 = .next u2 → exec b.bundle.x u2 = .next u3 → exec b.bundle.c u3 = .next u4 →
    step s = .next (u4.bundleEnd b)) ∧
  (∀ (s : State) core w n p pa x b, s.partOf core = some p →
    let wv := s.wave core w
    let sp := wv.split n
    p.inSection (s.entryOf core wv) (sp.pc * wv.codeUnit) = true → s.codeLoc core (sp.pc * wv.codeUnit) = some pa → s.mem.load pa wv.codeUnit = some x →
    (wv.carriedNow = false → decodeBundle x = .ok b → s.bundleIllegal core w wv sp b = none → s.fetch core w n = .ok b) ∧
    (∀ k i, wv.carriedNow = true → sp.mpc = none → slotOfClass (bitsNat x 60 4) = some k → decodeWord x = some i → s.bundleIllegal core w wv sp (Bundle.alone k i) = none →
      s.fetch core w n = .ok (Bundle.alone k i)))
end

