-- ==== Sys2Proof/Laws/Map.lean ====
section
/-! SUPPORT. The laws of sparse maps: read after write, writes elsewhere, canonical form. -/

namespace Sys2Proof.Machine.NMap
variable {α : Type}

/-! ### Reads after writes -/

@[simp] theorem get?_put_same (m : NMap α) (i : Nat) (a : α) : (m.put i a).get? i = some a := by
  induction m with
  | nil => simp [put, get?]
  | cons e m ih =>
    obtain ⟨k, v⟩ := e
    unfold put
    split
    · simp [get?]
    · split
      · simp [get?]
      · rename_i h _; simp [get?, h, ih]

theorem get?_put_other (m : NMap α) {i j : Nat} (a : α) (h : j ≠ i) : (m.put i a).get? j = m.get? j := by
  induction m with
  | nil => simp [put, get?, h]
  | cons e m ih =>
    obtain ⟨k, v⟩ := e
    unfold put
    split
    · rename_i e; subst e; simp [get?, h]
    · split
      · simp [get?, h]
      · simp only [get?, ih]

@[simp] theorem get?_del_same (m : NMap α) (i : Nat) : (m.del i).get? i = none := by
  induction m with
  | nil => rfl
  | cons e m ih =>
    obtain ⟨k, v⟩ := e
    unfold del
    split
    · exact ih
    · rename_i h; simp [get?, h, ih]

theorem get?_del_other (m : NMap α) {i j : Nat} (h : j ≠ i) : (m.del i).get? j = m.get? j := by
  induction m with
  | nil => rfl
  | cons e m ih =>
    obtain ⟨k, v⟩ := e
    unfold del
    split
    · rename_i e; subst e; simp [get?, h, ih]
    · simp only [get?, ih]

theorem get?_put (m : NMap α) (i j : Nat) (a : α) : (m.put i a).get? j = if j = i then some a else m.get? j := by
  by_cases h : j = i
  · subst h; simp
  · rw [if_neg h, get?_put_other m a h]

theorem get?_upd (m : NMap α) (i j : Nat) (f : α → α) : (m.upd i f).get? j = if j = i then (m.get? i).map f else m.get? j := by
  unfold upd
  cases h : m.get? i with
  | none => by_cases e : j = i
            · subst e; simp [h]
            · simp [e]
  | some a => simp [get?_put]

theorem get?_map {β : Type} (m : NMap α) (f : α → β) (i : Nat) :
    get? (m.map (fun e => (e.1, f e.2)) : NMap β) i = (m.get? i).map f := by
  induction m with
  | nil => rfl
  | cons e m ih => obtain ⟨k, v⟩ := e; simp only [List.map_cons, get?]; split <;> simp [ih]

variable [DecidableEq α]

@[simp] theorem getD_putD_same (m : NMap α) (d : α) (i : Nat) (a : α) : (m.putD d i a).getD d i = a := by
  unfold putD getD
  split
  · rename_i h; simp [h]
  · simp

theorem getD_putD_other (m : NMap α) (d : α) {i j : Nat} (a : α) (hj : j ≠ i) : (m.putD d i a).getD d j = m.getD d j := by
  unfold putD getD
  split
  · rw [get?_del_other m hj]
  · rw [get?_put_other m a hj]

theorem getD_putD (m : NMap α) (d : α) (i j : Nat) (a : α) : (m.putD d i a).getD d j = if j = i then a else m.getD d j := by
  by_cases h : j = i
  · subst h; simp
  · rw [if_neg h, getD_putD_other m d a h]

/-! ### Canonical form -/

omit [DecidableEq α] in
theorem above_mono {m : NMap α} {a b : Nat} (h : a ≤ b) (hb : above b m = true) : above a m = true := by
  cases m with
  | nil => rfl
  | cons e m => simp only [above, Bool.and_eq_true, decide_eq_true_eq] at *; exact ⟨by omega, hb.2⟩

omit [DecidableEq α] in
theorem above_put {m : NMap α} {b i : Nat} (a : α) (h : above b m = true) (hi : b ≤ i) : above b (m.put i a) = true := by
  induction m generalizing b with
  | nil => simp [put, above, hi]
  | cons e m ih =>
    obtain ⟨k, v⟩ := e
    simp only [above, Bool.and_eq_true, decide_eq_true_eq] at h
    by_cases h1 : i = k
    · subst h1; simp [put, above, h.1, h.2]
    · by_cases h2 : i < k
      · simp only [put, h1, h2, if_true, if_false, above, Bool.and_eq_true, decide_eq_true_eq]
        exact ⟨hi, by omega, h.2⟩
      · simp only [put, h1, h2, if_false, above, Bool.and_eq_true, decide_eq_true_eq]
        exact ⟨h.1, ih h.2 (by omega)⟩

omit [DecidableEq α] in
theorem sorted_put {m : NMap α} {i : Nat} (a : α) (h : sorted m = true) : sorted (m.put i a) = true :=
  above_put a h (Nat.zero_le i)

omit [DecidableEq α] in
theorem above_del {m : NMap α} {b i : Nat} (h : above b m = true) : above b (m.del i) = true := by
  induction m generalizing b with
  | nil => rfl
  | cons e m ih =>
    obtain ⟨k, v⟩ := e
    simp only [above, Bool.and_eq_true, decide_eq_true_eq] at h
    by_cases h1 : i = k
    · simp only [del, h1, if_true]; exact above_mono (by omega) (h1 ▸ ih h.2)
    · simp only [del, h1, if_false, above, Bool.and_eq_true, decide_eq_true_eq]; exact ⟨h.1, ih h.2⟩

omit [DecidableEq α] in
theorem sorted_del {m : NMap α} {i : Nat} (h : sorted m = true) : sorted (m.del i) = true := above_del h

omit [DecidableEq α] in
theorem all_del {m : NMap α} {p : Nat × α → Bool} {i : Nat} (h : m.all p = true) : (m.del i).all p = true := by
  induction m with
  | nil => rfl
  | cons e m ih =>
    obtain ⟨k, v⟩ := e
    simp only [List.all_cons, Bool.and_eq_true] at h
    by_cases h1 : i = k
    · simp only [del, h1, if_true]; exact h1 ▸ ih h.2
    · simp only [del, h1, if_false, List.all_cons, Bool.and_eq_true]; exact ⟨h.1, ih h.2⟩

omit [DecidableEq α] in
theorem all_put {m : NMap α} {p : Nat × α → Bool} {i : Nat} {a : α} (h : m.all p = true) (hp : p (i, a) = true) :
    (m.put i a).all p = true := by
  induction m with
  | nil => simp [put, hp]
  | cons e m ih =>
    obtain ⟨k, v⟩ := e
    simp only [List.all_cons, Bool.and_eq_true] at h
    by_cases h1 : i = k
    · subst h1; simp only [put, if_true, List.all_cons, Bool.and_eq_true]; exact ⟨hp, h.2⟩
    · by_cases h2 : i < k
      · simp only [put, h1, h2, if_true, if_false, List.all_cons, Bool.and_eq_true]; exact ⟨hp, h⟩
      · simp only [put, h1, h2, if_false, List.all_cons, Bool.and_eq_true]; exact ⟨h.1, ih h.2⟩

theorem wfD_putD {m : NMap α} {d : α} {i : Nat} (a : α) (h : wfD m d = true) : wfD (m.putD d i a) d = true := by
  unfold wfD at *
  simp only [Bool.and_eq_true] at *
  unfold putD
  by_cases ha : a = d
  · rw [if_pos ha]; exact ⟨sorted_del h.1, all_del h.2⟩
  · rw [if_neg ha]; exact ⟨sorted_put a h.1, all_put h.2 (by simp [ha])⟩

end Sys2Proof.Machine.NMap

namespace Sys2Proof.Machine

/-! ### Registers -/

theorem RMap.rd_wr (m : RMap) (i j : Nat) (a : W64) : RMap.rd (RMap.wr m i a) j = if j = i then a else RMap.rd m j := NMap.getD_putD ..
theorem VMap.rd_wr (m : VMap) (i j : Nat) (a : W32) : VMap.rd (VMap.wr m i a) j = if j = i then a else VMap.rd m j := NMap.getD_putD ..
@[simp] theorem RMap.rd_wr_same (m : RMap) (i : Nat) (a : W64) : RMap.rd (RMap.wr m i a) i = a := NMap.getD_putD_same ..
@[simp] theorem VMap.rd_wr_same (m : VMap) (i : Nat) (a : W32) : VMap.rd (VMap.wr m i a) i = a := NMap.getD_putD_same ..
theorem RMap.rd_wr_other (m : RMap) {i j : Nat} (a : W64) (h : j ≠ i) : RMap.rd (RMap.wr m i a) j = RMap.rd m j := NMap.getD_putD_other _ _ _ h
theorem VMap.rd_wr_other (m : VMap) {i j : Nat} (a : W32) (h : j ≠ i) : VMap.rd (VMap.wr m i a) j = VMap.rd m j := NMap.getD_putD_other _ _ _ h

/-! ### Memory -/

/-- Every write of one byte keeps the canonical form. -/
theorem Memory.wf_wr {m : Memory} {a : Nat} {b : Byte} (h : m.wf = true) : (m.wr a b).wf = true := NMap.wfD_putD b h
@[simp] theorem Memory.rd_wr_same (m : Memory) (a : Nat) (b : Byte) : (m.wr a b).rd a = b := NMap.getD_putD_same ..
theorem Memory.rd_wr_other (m : Memory) {a c : Nat} (b : Byte) (hc : c ≠ a) : (m.wr a b).rd c = m.rd c := NMap.getD_putD_other _ _ _ hc

theorem Memory.wf_store {m : Memory} (n : Nat) {a x : Nat} (h : m.wf = true) : (m.store a n x).wf = true := by
  induction n generalizing m a x with
  | zero => exact h
  | succ n ih => exact ih (Memory.wf_wr h)

theorem Memory.wf_storeBytes {m : Memory} (l : List Byte) {a : Nat} (h : m.wf = true) : (m.storeBytes a l).wf = true := by
  induction l generalizing m a with
  | nil => exact h
  | cons b l ih => exact ih (Memory.wf_wr h)

/-- A store leaves every byte outside its n bytes alone. -/
theorem Memory.rd_store_other (m : Memory) (n : Nat) {a c x : Nat} (hc : c < a ∨ a + n ≤ c) : (m.store a n x).rd c = m.rd c := by
  induction n generalizing m a x with
  | zero => rfl
  | succ n ih =>
    simp only [Memory.store]
    rw [ih (m.wr a _) (by omega), Memory.rd_wr_other _ _ (by omega)]

/-- A store leaves byte k of its value at its address plus k (R6). -/
theorem Memory.rd_store (m : Memory) (n : Nat) {a k x : Nat} (hk : k < n) :
    (m.store a n x).rd (a + k) = BitVec.ofNat 8 (x / 256 ^ k) := by
  induction n generalizing m a k x with
  | zero => omega
  | succ n ih =>
    simp only [Memory.store]
    cases k with
    | zero => rw [Memory.rd_store_other _ _ (by omega)]; simp
    | succ k =>
      have := ih (m.wr a (BitVec.ofNat 8 x)) (a := a + 1) (k := k) (x := x / 256) (by omega)
      rw [show a + (k + 1) = a + 1 + k by omega, this, Nat.div_div_eq_div_mul, Nat.pow_succ, Nat.mul_comm]

end Sys2Proof.Machine
end

