-- ==== Sys2Proof/Laws/Mem.lean ====
section
/-! SUPPORT. Every operation on the memories keeps their canonical form. -/

namespace Sys2Proof.Machine

/-! ### Folds and filters -/

theorem foldl_keeps {α β : Type} {P : β → Prop} {f : β → α → β} (h : ∀ b a, P b → P (f b a)) (l : List α) {b : β} (hb : P b) :
    P (l.foldl f b) := by
  induction l generalizing b with
  | nil => exact hb
  | cons a l ih => exact ih (h b a hb)

theorem NMap.above_filter {α : Type} (q : Nat × α → Bool) {m : NMap α} {b : Nat} (h : NMap.above b m = true) :
    NMap.above b (List.filter q m) = true := by
  induction m generalizing b with
  | nil => rfl
  | cons e m ih =>
    obtain ⟨k, v⟩ := e
    simp only [NMap.above, Bool.and_eq_true, decide_eq_true_eq] at h
    by_cases hq : q (k, v) = true
    · rw [List.filter_cons_of_pos hq]
      simp only [NMap.above, Bool.and_eq_true, decide_eq_true_eq]
      exact ⟨h.1, ih h.2⟩
    · rw [List.filter_cons_of_neg hq]
      exact NMap.above_mono (by omega) (ih h.2)

theorem Memory.wf_filter (q : Nat × Byte → Bool) {m : Memory} (h : m.wf = true) : Memory.wf (List.filter q m) = true := by
  unfold Memory.wf NMap.wfD at *
  simp only [Bool.and_eq_true] at *
  refine ⟨NMap.above_filter q h.1, List.all_eq_true.2 (fun e he => List.all_eq_true.1 h.2 e (List.mem_filter.1 he).1)⟩

/-! ### The operations -/

theorem Mems.wf_reset : Mems.reset.wf := ⟨rfl, rfl, rfl⟩

theorem Mems.wf_wr {m n : Mems} {pa : Nat} {b : Byte} (hm : m.wf) (h : m.wr pa b = some n) : n.wf := by
  unfold Mems.wr at h
  split at h
  · obtain ⟨c, _, rfl⟩ := Option.map_eq_some_iff.1 h; exact hm
  · split at h
    · cases h; exact ⟨Memory.wf_wr hm.1, hm.2⟩
    · cases h

theorem Mems.wf_store (k : Nat) {m n : Mems} {pa x : Nat} (hm : m.wf) (h : m.store pa k x = some n) : n.wf := by
  induction k generalizing m pa x with
  | zero => cases h; exact hm
  | succ k ih =>
    obtain ⟨u, hu, hn⟩ := Option.bind_eq_some_iff.1 h
    exact ih (Mems.wf_wr hm hu) hn

/-- What a memory operation changes besides its three byte maps does not matter to their form. -/
theorem Mems.wf_of {m n : Mems} (hm : m.wf) (h : n.home = m.home) (b : n.hbm = m.hbm) (g : n.stg = m.stg) : n.wf := by
  unfold Mems.wf at *; rw [h, b, g]; exact hm

theorem Mems.wf_encode {m : Mems} (sec : Nat) (hm : m.wf) : (m.encode sec).wf := by
  unfold Mems.encode
  generalize List.range 128 = l
  split
  · split
    · refine ⟨foldl_keeps (P := fun h => Memory.wf h = true) (fun b j hb => ?_) _ hm.1,
        foldl_keeps (P := fun h => Memory.wf h = true) (fun b j hb => ?_) _ hm.2.1, hm.2.2⟩ <;>
      · split
        · exact Memory.wf_wr hb
        · exact hb
    · exact hm
  · exact hm

theorem Mems.wf_clean {m : Mems} (sec : Nat) (hm : m.wf) : (m.clean sec).wf := by
  have h : Mems.wf (if isCarrier (sec * 256) then m.encode (sec - carrierBase / 256)
    else { m with hbm := (List.range 256).foldl (fun h i => Memory.wr h (sec * 256 + i) (Memory.rd m.home (sec * 256 + i))) m.hbm }) := by
    generalize List.range 256 = l
    split
    · exact Mems.wf_encode _ hm
    · exact ⟨hm.1, foldl_keeps (P := fun h => Memory.wf h = true) (fun _ _ hb => Memory.wf_wr hb) _ hm.2.1, hm.2.2⟩
  unfold Mems.clean
  dsimp only
  split <;> exact Mems.wf_of h rfl rfl rfl

theorem Mems.wf_dropSec {m : Mems} (sec : Nat) (hm : m.wf) : (m.dropSec sec).wf := by
  unfold Mems.dropSec
  dsimp only
  refine Mems.wf_of ?_ rfl rfl rfl
  split
  · split
    · exact Mems.wf_clean _ hm
    · exact hm
  · exact hm

theorem Mems.wf_dropLine {m : Mems} (n : Nat) (hm : m.wf) : (m.dropLine n).wf := by
  unfold Mems.dropLine
  generalize List.range 4 = l
  exact foldl_keeps (P := Mems.wf) (fun _ _ hb => Mems.wf_dropSec _ hb) l hm

theorem Mems.wf_use {m : Mems} (n : Nat) (hm : m.wf) : (m.use n).wf := by
  unfold Mems.use
  split
  · exact hm
  · dsimp only
    split
    · exact Mems.wf_dropLine _ hm
    · exact hm

theorem Mems.wf_noteWrite {m : Mems} (pa : Nat) (cop : CacheOp) (hm : m.wf) : (m.noteWrite pa cop).wf := by
  unfold Mems.noteWrite
  split
  · exact hm
  · dsimp only
    split
    · exact Mems.wf_of (Mems.wf_clean (m := { m with rdc := NMap.del m.rdc (sector pa) }) (sector pa) hm) rfl rfl rfl
    all_goals exact Mems.wf_use _ hm

theorem Mems.wf_noteRead {m : Mems} (pa : Nat) (cop : CacheOp) (hm : m.wf) : (m.noteRead pa cop).wf := by
  unfold Mems.noteRead
  split
  · exact hm
  · apply Mems.wf_use
    split <;> exact hm

theorem Mems.wf_noteCopy {m : Mems} (pa die : Nat) (cop : CacheOp) (hm : m.wf) : (m.noteCopy pa die cop).wf := by
  unfold Mems.noteCopy
  split
  · exact hm
  · dsimp only
    split <;> exact hm

theorem Mems.wf_flushStaging {m : Mems} (sec : Nat) (hm : m.wf) : (m.flushStaging sec).wf := by
  unfold Mems.flushStaging
  generalize 256 = k
  dsimp only
  split
  · exact hm
  · split
    · exact hm
    · exact ⟨Memory.wf_storeBytes _ hm.1, Memory.wf_storeBytes _ hm.2.1, hm.2.2⟩

theorem Mems.wf_flushSec {m : Mems} (sec : Nat) (hm : m.wf) : (m.flushSec sec).wf := by
  unfold Mems.flushSec
  split
  · split
    · exact Mems.wf_clean _ hm
    · exact hm
  · exact hm

theorem Mems.wf_dropWays {m : Mems} (j below : Nat) (hm : m.wf) : (m.dropWays j below).wf :=
  foldl_keeps (P := Mems.wf) (fun _ _ hb => Mems.wf_dropLine _ hb) _ hm

theorem Mems.wf_dropRange {m : Mems} (f : Frr) (hm : m.wf) : (m.dropRange f).wf := by
  unfold Mems.dropRange
  generalize m.l2.filter (fun e => f.covers e.1) = l
  exact foldl_keeps (P := Mems.wf) (fun _ _ hb => Mems.wf_dropSec _ hb) l hm

theorem Mems.wf_vaStore {m n : Mems} {p : Part} {va k x : Nat} (hm : m.wf) (h : vaStore m p va k x = some n) : n.wf := by
  unfold vaStore at h
  split at h
  · split at h
    · cases h
    · obtain ⟨u, hu, rfl⟩ := Option.map_eq_some_iff.1 h; exact Mems.wf_noteWrite _ _ (Mems.wf_store _ hm hu)
  · cases h

theorem Mems.wf_vaStoreBytes (p : Part) (k : Nat) {m : Mems} {va : Nat} {bs : List Byte} (hm : m.wf) : (vaStoreBytes p k m va bs).wf := by
  induction k generalizing m va bs with
  | zero => exact hm
  | succ k ih =>
    unfold vaStoreBytes
    split
    · exact hm
    · dsimp only
      refine ih ?_
      split
      · split
        · exact hm
        · split
          · next h => exact Mems.wf_noteWrite _ _ (Mems.wf_store _ hm h)
          · exact hm
      · exact hm

theorem Mems.wf_putImage {m : Mems} (p : Part) (va : Nat) (bs : List Byte) (hm : m.wf) : (putImage m p va bs).wf := Mems.wf_vaStoreBytes p _ hm

/-- Dropping ranges of bytes, as scrubbing and staging do. -/
theorem Mems.wf_drop {m : Mems} (q r : Nat × Byte → Bool) (hm : m.wf) :
    Mems.wf { m with home := List.filter q m.home, stg := List.filter r m.stg } := ⟨Memory.wf_filter q hm.1, hm.2.1, Memory.wf_filter r hm.2.2⟩

end Sys2Proof.Machine
end

