-- ==== Sys2Proof/Laws/PerInstr.lean ====
section
/-! SUPPORT. One syntactic fact of every instruction, and a lemma for each constructor. -/

namespace Sys2Proof.Laws.Slots

/-- An operation has a register view exactly when it stands in the V slot; one with a flag select stands in V or M (R71); what has no
slot (NOP and the events) has the encoding zero (R65). -/
def Statement (i : Instr) : Prop :=
  i.vinfo.isSome = (i.slot == some .v) ∧ (i.fsel.isSome = true → i.slot = some .v ∨ i.slot = some .m) ∧ (i.slot = none → encode i = 0)

theorem nop : Statement .nop := ⟨rfl, fun h => Bool.noConfusion h, fun _ => rfl⟩
theorem fadd (o : Bin) (t : FTy) (r : RMode) (sat : Bool) : Statement (.fadd o t r sat) := ⟨rfl, fun h => Bool.noConfusion h, fun h => nomatch h⟩
theorem fsub (o : Bin) (t : FTy) (r : RMode) (sat : Bool) : Statement (.fsub o t r sat) := ⟨rfl, fun h => Bool.noConfusion h, fun h => nomatch h⟩
theorem fmul (o : Bin) (t : FTy) (r : RMode) (sat : Bool) : Statement (.fmul o t r sat) := ⟨rfl, fun h => Bool.noConfusion h, fun h => nomatch h⟩
theorem fma (o : Tern) (t : FTy) (r : RMode) (sat : Bool) : Statement (.fma o t r sat) := ⟨rfl, fun h => Bool.noConfusion h, fun h => nomatch h⟩
theorem fms (o : Tern) (t : FTy) (r : RMode) (sat : Bool) : Statement (.fms o t r sat) := ⟨rfl, fun h => Bool.noConfusion h, fun h => nomatch h⟩
theorem fnma (o : Tern) (t : FTy) (r : RMode) (sat : Bool) : Statement (.fnma o t r sat) := ⟨rfl, fun h => Bool.noConfusion h, fun h => nomatch h⟩
theorem fmin (o : Bin) (t : FTy) : Statement (.fmin o t) := ⟨rfl, fun h => Bool.noConfusion h, fun h => nomatch h⟩
theorem fmax (o : Bin) (t : FTy) : Statement (.fmax o t) := ⟨rfl, fun h => Bool.noConfusion h, fun h => nomatch h⟩
theorem fcmp (o : CmpOp) (t : FTy) (c : FCond) : Statement (.fcmp o t c) := ⟨rfl, fun h => Bool.noConfusion h, fun h => nomatch h⟩
theorem fcls (o : Un) (t : FTy) : Statement (.fcls o t) := ⟨rfl, fun h => Bool.noConfusion h, fun h => nomatch h⟩
theorem frnd (o : Un) (t : FTy) (r : RMode) : Statement (.frnd o t r) := ⟨rfl, fun h => Bool.noConfusion h, fun h => nomatch h⟩
theorem fcvt (o : Un) (src dst : FFmt) (r : RMode) (sat : Bool) : Statement (.fcvt o src dst r sat) := ⟨rfl, fun h => Bool.noConfusion h, fun h => nomatch h⟩
theorem fdot2 (o : Tern) (bf : Bool) (r : RMode) (sat : Bool) : Statement (.fdot2 o bf r sat) := ⟨rfl, fun h => Bool.noConfusion h, fun h => nomatch h⟩
theorem fscl (o : Bin) (t : FTy) (r : RMode) (sat : Bool) : Statement (.fscl o t r sat) := ⟨rfl, fun h => Bool.noConfusion h, fun h => nomatch h⟩
theorem afcp (o : Bin) : Statement (.afcp o) := ⟨rfl, fun h => Bool.noConfusion h, fun h => nomatch h⟩
theorem frcp (o : Un) (t : FTy) (r : RMode) : Statement (.frcp o t r) := ⟨rfl, fun h => Bool.noConfusion h, fun h => nomatch h⟩
theorem frsq (o : Un) (t : FTy) (r : RMode) : Statement (.frsq o t r) := ⟨rfl, fun h => Bool.noConfusion h, fun h => nomatch h⟩
theorem fsqrt (o : Un) (t : FTy) (r : RMode) : Statement (.fsqrt o t r) := ⟨rfl, fun h => Bool.noConfusion h, fun h => nomatch h⟩
theorem fex2 (o : Un) (t : FTy) (r : RMode) : Statement (.fex2 o t r) := ⟨rfl, fun h => Bool.noConfusion h, fun h => nomatch h⟩
theorem flg2 (o : Un) (t : FTy) (r : RMode) : Statement (.flg2 o t r) := ⟨rfl, fun h => Bool.noConfusion h, fun h => nomatch h⟩
theorem fsin (o : Un) (t : FTy) (r : RMode) : Statement (.fsin o t r) := ⟨rfl, fun h => Bool.noConfusion h, fun h => nomatch h⟩
theorem fcos (o : Un) (t : FTy) (r : RMode) : Statement (.fcos o t r) := ⟨rfl, fun h => Bool.noConfusion h, fun h => nomatch h⟩
theorem ftnh (o : Un) (t : FTy) (r : RMode) : Statement (.ftnh o t r) := ⟨rfl, fun h => Bool.noConfusion h, fun h => nomatch h⟩
theorem fdiv (o : Bin) (t : FTy) (r : RMode) (f : FSel) : Statement (.fdiv o t r f) := ⟨rfl, fun _ => .inl rfl, fun h => nomatch h⟩
theorem iadd (o : Bin) (t : ITy) (sat : Bool) : Statement (.iadd o t sat) := ⟨rfl, fun h => Bool.noConfusion h, fun h => nomatch h⟩
theorem isub (o : Bin) (t : ITy) (sat : Bool) : Statement (.isub o t sat) := ⟨rfl, fun h => Bool.noConfusion h, fun h => nomatch h⟩
theorem iadc (o : Tern) (wide : Bool) (co : Bool) : Statement (.iadc o wide co) := ⟨rfl, fun h => Bool.noConfusion h, fun h => nomatch h⟩
theorem imul (o : Bin) (t : ITy) (sat : Bool) : Statement (.imul o t sat) := ⟨rfl, fun h => Bool.noConfusion h, fun h => nomatch h⟩
theorem imulh (o : Bin) (t : ITy) : Statement (.imulh o t) := ⟨rfl, fun h => Bool.noConfusion h, fun h => nomatch h⟩
theorem imad (o : Tern) (t : ITy) (sat : Bool) : Statement (.imad o t sat) := ⟨rfl, fun h => Bool.noConfusion h, fun h => nomatch h⟩
theorem imin (o : Bin) (t : ITy) : Statement (.imin o t) := ⟨rfl, fun h => Bool.noConfusion h, fun h => nomatch h⟩
theorem imax (o : Bin) (t : ITy) : Statement (.imax o t) := ⟨rfl, fun h => Bool.noConfusion h, fun h => nomatch h⟩
theorem iabs (o : Un) (t : ITy) (sat : Bool) : Statement (.iabs o t sat) := ⟨rfl, fun h => Bool.noConfusion h, fun h => nomatch h⟩
theorem icmp (o : CmpOp) (t : ITy) (c : ICond) : Statement (.icmp o t c) := ⟨rfl, fun h => Bool.noConfusion h, fun h => nomatch h⟩
theorem icvt (o : Un) (src dst : ITy) (sat : Bool) : Statement (.icvt o src dst sat) := ⟨rfl, fun h => Bool.noConfusion h, fun h => nomatch h⟩
theorem ftoi (o : Un) (src : FFmt) (dst : ITy) (r : RMode) : Statement (.ftoi o src dst r) := ⟨rfl, fun h => Bool.noConfusion h, fun h => nomatch h⟩
theorem itof (o : Un) (src : ITy) (dst : FFmt) (r : RMode) (sat : Bool) : Statement (.itof o src dst r sat) := ⟨rfl, fun h => Bool.noConfusion h, fun h => nomatch h⟩
theorem and (o : Bin) (t : ITy) : Statement (.and o t) := ⟨rfl, fun h => Bool.noConfusion h, fun h => nomatch h⟩
theorem or (o : Bin) (t : ITy) : Statement (.or o t) := ⟨rfl, fun h => Bool.noConfusion h, fun h => nomatch h⟩
theorem xor (o : Bin) (t : ITy) : Statement (.xor o t) := ⟨rfl, fun h => Bool.noConfusion h, fun h => nomatch h⟩
theorem andn (o : Bin) (t : ITy) : Statement (.andn o t) := ⟨rfl, fun h => Bool.noConfusion h, fun h => nomatch h⟩
theorem shl (o : Bin) (t : ITy) : Statement (.shl o t) := ⟨rfl, fun h => Bool.noConfusion h, fun h => nomatch h⟩
theorem shr (o : Bin) (t : ITy) : Statement (.shr o t) := ⟨rfl, fun h => Bool.noConfusion h, fun h => nomatch h⟩
theorem sar (o : Bin) (t : ITy) : Statement (.sar o t) := ⟨rfl, fun h => Bool.noConfusion h, fun h => nomatch h⟩
theorem rotl (o : Bin) (t : ITy) : Statement (.rotl o t) := ⟨rfl, fun h => Bool.noConfusion h, fun h => nomatch h⟩
theorem popc (o : Un) (t : ITy) : Statement (.popc o t) := ⟨rfl, fun h => Bool.noConfusion h, fun h => nomatch h⟩
theorem clz (o : Un) (t : ITy) : Statement (.clz o t) := ⟨rfl, fun h => Bool.noConfusion h, fun h => nomatch h⟩
theorem brev (o : Un) (t : ITy) : Statement (.brev o t) := ⟨rfl, fun h => Bool.noConfusion h, fun h => nomatch h⟩
theorem bfe (o : Tern) (t : ITy) : Statement (.bfe o t) := ⟨rfl, fun h => Bool.noConfusion h, fun h => nomatch h⟩
theorem bfi (o : Tern) (wide : Bool) : Statement (.bfi o wide) := ⟨rfl, fun h => Bool.noConfusion h, fun h => nomatch h⟩
theorem prmb (o : Tern) : Statement (.prmb o) := ⟨rfl, fun h => Bool.noConfusion h, fun h => nomatch h⟩
theorem mov (o : Un) (wide : Bool) : Statement (.mov o wide) := ⟨rfl, fun h => Bool.noConfusion h, fun h => nomatch h⟩
theorem sel (o : Bin) (pc : BitVec 3) (wide : Bool) : Statement (.sel o pc wide) := ⟨rfl, fun h => Bool.noConfusion h, fun h => nomatch h⟩
theorem shuf (o : Bin) (wide : Bool) : Statement (.shuf o wide) := ⟨rfl, fun h => Bool.noConfusion h, fun h => nomatch h⟩
theorem lbrd (o : Bin) (wide : Bool) : Statement (.lbrd o wide) := ⟨rfl, fun h => Bool.noConfusion h, fun h => nomatch h⟩
theorem rowb (o : Bin) (wide : Bool) : Statement (.rowb o wide) := ⟨rfl, fun h => Bool.noConfusion h, fun h => nomatch h⟩
theorem colb (o : Bin) (wide : Bool) : Statement (.colb o wide) := ⟨rfl, fun h => Bool.noConfusion h, fun h => nomatch h⟩
theorem trns (o : Un) (wide : Bool) : Statement (.trns o wide) := ⟨rfl, fun h => Bool.noConfusion h, fun h => nomatch h⟩
theorem lred (o : Un) (t : RTy) (k : RedKind) (op : RedOp) (r : RMode) : Statement (.lred o t k op r) := ⟨rfl, fun h => Bool.noConfusion h, fun h => nomatch h⟩
theorem lscn (o : Un) (t : RTy) (excl : Bool) (op : RedOp) (r : RMode) : Statement (.lscn o t excl op r) := ⟨rfl, fun h => Bool.noConfusion h, fun h => nomatch h⟩
theorem plog (p : Pred) (pd pa pb : BitVec 3) (tt : BitVec 4) : Statement (.plog p pd pa pb tt) := ⟨rfl, fun h => Bool.noConfusion h, fun h => nomatch h⟩
theorem pmovTp (p : Pred) (pd : BitVec 3) (s : BitVec 6) : Statement (.pmovTp p pd s) := ⟨rfl, fun h => Bool.noConfusion h, fun h => nomatch h⟩
theorem pmovFp (p : Pred) (sd : BitVec 6) (pa : BitVec 3) : Statement (.pmovFp p sd pa) := ⟨rfl, fun h => Bool.noConfusion h, fun h => nomatch h⟩
theorem pcnt (p : Pred) (d : Opnd) (pa : BitVec 3) : Statement (.pcnt p d pa) := ⟨rfl, fun h => Bool.noConfusion h, fun h => nomatch h⟩
theorem pffs (p : Pred) (d : Opnd) (pa : BitVec 3) : Statement (.pffs p d pa) := ⟨rfl, fun h => Bool.noConfusion h, fun h => nomatch h⟩
theorem rand (p : Pred) (d : Opnd) : Statement (.rand p d) := ⟨rfl, fun h => Bool.noConfusion h, fun h => nomatch h⟩
theorem movi (p : Pred) (d : Opnd) (imm : W32) (sx : Bool) : Statement (.movi p d imm sx) := ⟨rfl, fun h => Bool.noConfusion h, fun h => nomatch h⟩
theorem movh (p : Pred) (d : Opnd) (imm : W32) : Statement (.movh p d imm) := ⟨rfl, fun h => Bool.noConfusion h, fun h => nomatch h⟩
theorem ld (o : Mem) : Statement (.ld o) := ⟨rfl, fun _ => .inr rfl, fun h => nomatch h⟩
theorem ldX (o : Mem) : Statement (.ldX o) := ⟨rfl, fun _ => .inr rfl, fun h => nomatch h⟩
theorem st (o : Mem) : Statement (.st o) := ⟨rfl, fun _ => .inr rfl, fun h => nomatch h⟩
theorem stX (o : Mem) : Statement (.stX o) := ⟨rfl, fun _ => .inr rfl, fun h => nomatch h⟩
theorem ldb (o : Mem) : Statement (.ldb o) := ⟨rfl, fun _ => .inr rfl, fun h => nomatch h⟩
theorem stb (o : Mem) : Statement (.stb o) := ⟨rfl, fun _ => .inr rfl, fun h => nomatch h⟩
theorem ldt (o : Mem) : Statement (.ldt o) := ⟨rfl, fun _ => .inr rfl, fun h => nomatch h⟩
theorem stt (o : Mem) : Statement (.stt o) := ⟨rfl, fun _ => .inr rfl, fun h => nomatch h⟩
theorem ldset (o : Ldset) : Statement (.ldset o) := ⟨rfl, fun _ => .inr rfl, fun h => nomatch h⟩
theorem atomAdd (o : Atom) : Statement (.atomAdd o) := ⟨rfl, fun _ => .inr rfl, fun h => nomatch h⟩
theorem atomMin (o : Atom) : Statement (.atomMin o) := ⟨rfl, fun _ => .inr rfl, fun h => nomatch h⟩
theorem atomMax (o : Atom) : Statement (.atomMax o) := ⟨rfl, fun _ => .inr rfl, fun h => nomatch h⟩
theorem atomAnd (o : Atom) : Statement (.atomAnd o) := ⟨rfl, fun _ => .inr rfl, fun h => nomatch h⟩
theorem atomOr (o : Atom) : Statement (.atomOr o) := ⟨rfl, fun _ => .inr rfl, fun h => nomatch h⟩
theorem atomXor (o : Atom) : Statement (.atomXor o) := ⟨rfl, fun _ => .inr rfl, fun h => nomatch h⟩
theorem atomXchg (o : Atom) : Statement (.atomXchg o) := ⟨rfl, fun _ => .inr rfl, fun h => nomatch h⟩
theorem atomIncw (o : Atom) : Statement (.atomIncw o) := ⟨rfl, fun _ => .inr rfl, fun h => nomatch h⟩
theorem cas (o : Atom) : Statement (.cas o) := ⟨rfl, fun _ => .inr rfl, fun h => nomatch h⟩
theorem waita (o : Waita) : Statement (.waita o) := ⟨rfl, fun _ => .inr rfl, fun h => nomatch h⟩
theorem l1inv (p : Pred) : Statement (.l1inv p) := ⟨rfl, fun h => Bool.noConfusion h, fun h => nomatch h⟩
theorem fence (p : Pred) (scope : Scope) (kind : Ord) (f : FSel) : Statement (.fence p scope kind f) := ⟨rfl, fun _ => .inr rfl, fun h => nomatch h⟩
theorem drain (p : Pred) (dest : Option (BitVec 6)) (f : FSel) : Statement (.drain p dest f) := ⟨rfl, fun _ => .inr rfl, fun h => nomatch h⟩
theorem drainRel (p : Pred) (dest : Option (BitVec 6)) (f : FSel) : Statement (.drainRel p dest f) := ⟨rfl, fun _ => .inr rfl, fun h => nomatch h⟩
theorem flush (p : Pred) (base : BitVec 6) (ofs : BitVec 16) (staging : Bool) (f : FSel) : Statement (.flush p base ofs staging f) := ⟨rfl, fun _ => .inr rfl, fun h => nomatch h⟩
theorem bpref (p : Pred) (tag : BitVec 6) (base : BitVec 6) (ofs : BitVec 16) (f : FSel) : Statement (.bpref p tag base ofs f) := ⟨rfl, fun _ => .inr rfl, fun h => nomatch h⟩
theorem pref (p : Pred) (n : Byte) (base : BitVec 6) (ofs : BitVec 16) (f : FSel) : Statement (.pref p n base ofs f) := ⟨rfl, fun _ => .inr rfl, fun h => nomatch h⟩
theorem send (o : Msg) : Statement (.send o) := ⟨rfl, fun _ => .inr rfl, fun h => nomatch h⟩
theorem recv (o : Msg) : Statement (.recv o) := ⟨rfl, fun _ => .inr rfl, fun h => nomatch h⟩
theorem cpy (o : XOp) : Statement (.cpy o) := ⟨rfl, fun h => Bool.noConfusion h, fun h => nomatch h⟩
theorem cpyq (o : XOp) : Statement (.cpyq o) := ⟨rfl, fun h => Bool.noConfusion h, fun h => nomatch h⟩
theorem cpyo (o : XOp) : Statement (.cpyo o) := ⟨rfl, fun h => Bool.noConfusion h, fun h => nomatch h⟩
theorem cpyr (o : XOp) : Statement (.cpyr o) := ⟨rfl, fun h => Bool.noConfusion h, fun h => nomatch h⟩
theorem coll (o : XOp) : Statement (.coll o) := ⟨rfl, fun h => Bool.noConfusion h, fun h => nomatch h⟩
theorem mxq (o : XOp) : Statement (.mxq o) := ⟨rfl, fun h => Bool.noConfusion h, fun h => nomatch h⟩
theorem mxrd (o : XOp) (n1 : BitVec 6) : Statement (.mxrd o n1) := ⟨rfl, fun h => Bool.noConfusion h, fun h => nomatch h⟩
theorem mxwr (o : XOp) (n1 : BitVec 6) : Statement (.mxwr o n1) := ⟨rfl, fun h => Bool.noConfusion h, fun h => nomatch h⟩
theorem mxz (o : XOp) : Statement (.mxz o) := ⟨rfl, fun h => Bool.noConfusion h, fun h => nomatch h⟩
theorem mxcrd (o : XOp) : Statement (.mxcrd o) := ⟨rfl, fun h => Bool.noConfusion h, fun h => nomatch h⟩
theorem mxcwr (o : XOp) : Statement (.mxcwr o) := ⟨rfl, fun h => Bool.noConfusion h, fun h => nomatch h⟩
theorem br (p : Pred) (ofs : BitVec 24) : Statement (.br p ofs) := ⟨rfl, fun h => Bool.noConfusion h, fun h => nomatch h⟩
theorem brc (p : Pred) (c : BrCond) (ofs : BitVec 24) : Statement (.brc p c ofs) := ⟨rfl, fun h => Bool.noConfusion h, fun h => nomatch h⟩
theorem brv (p : Pred) (neg : Bool) (pc : BitVec 3) (ofs : BitVec 24) (join : BitVec 10) : Statement (.brv p neg pc ofs join) := ⟨rfl, fun h => Bool.noConfusion h, fun h => nomatch h⟩
theorem jmpi (p : Pred) (s : BitVec 6) : Statement (.jmpi p s) := ⟨rfl, fun h => Bool.noConfusion h, fun h => nomatch h⟩
theorem call (p : Pred) (s : BitVec 6) (ofs : BitVec 24) : Statement (.call p s ofs) := ⟨rfl, fun h => Bool.noConfusion h, fun h => nomatch h⟩
theorem ret (p : Pred) (s : BitVec 6) : Statement (.ret p s) := ⟨rfl, fun h => Bool.noConfusion h, fun h => nomatch h⟩
theorem loop (s : BitVec 6) (ofs : BitVec 24) (sw : Bool) (rot : BitVec 5) : Statement (.loop s ofs sw rot) := ⟨rfl, fun h => Bool.noConfusion h, fun h => nomatch h⟩
theorem lmark (n1 : BitVec 5) : Statement (.lmark n1) := ⟨rfl, fun h => Bool.noConfusion h, fun h => nomatch h⟩
theorem nest (s : BitVec 6) (si : BitVec 6) (d1 : BitVec 3) (n1 : BitVec 5) : Statement (.nest s si d1 n1) := ⟨rfl, fun h => Bool.noConfusion h, fun h => nomatch h⟩
theorem clause (wait : BitVec 12) (fa fb : BitVec 4) : Statement (.clause wait fa fb) := ⟨rfl, fun h => Bool.noConfusion h, fun h => nomatch h⟩
theorem wflg (wait : BitVec 12) : Statement (.wflg wait) := ⟨rfl, fun h => Bool.noConfusion h, fun h => nomatch h⟩
theorem twany (s : BitVec 6) : Statement (.twany s) := ⟨rfl, fun h => Bool.noConfusion h, fun h => nomatch h⟩
theorem twall (s : BitVec 6) : Statement (.twall s) := ⟨rfl, fun h => Bool.noConfusion h, fun h => nomatch h⟩
theorem tffr (sd s : BitVec 6) : Statement (.tffr sd s) := ⟨rfl, fun h => Bool.noConfusion h, fun h => nomatch h⟩
theorem tclr (p : Pred) (s : BitVec 6) : Statement (.tclr p s) := ⟨rfl, fun h => Bool.noConfusion h, fun h => nomatch h⟩
theorem bar (id : BitVec 4) : Statement (.bar id) := ⟨rfl, fun h => Bool.noConfusion h, fun h => nomatch h⟩
theorem gbar (id : BitVec 2) : Statement (.gbar id) := ⟨rfl, fun h => Bool.noConfusion h, fun h => nomatch h⟩
theorem sbar (n : Byte) : Statement (.sbar n) := ⟨rfl, fun h => Bool.noConfusion h, fun h => nomatch h⟩
theorem shape (p : Pred) (r : BitVec 3) : Statement (.shape p r) := ⟨rfl, fun h => Bool.noConfusion h, fun h => nomatch h⟩
theorem rngix (p : Pred) (s : BitVec 6) : Statement (.rngix p s) := ⟨rfl, fun h => Bool.noConfusion h, fun h => nomatch h⟩
theorem gets (p : Pred) (sd : BitVec 6) (num : BitVec 12) : Statement (.gets p sd num) := ⟨rfl, fun h => Bool.noConfusion h, fun h => nomatch h⟩
theorem sets (p : Pred) (num : BitVec 12) (s : BitVec 6) : Statement (.sets p num s) := ⟨rfl, fun h => Bool.noConfusion h, fun h => nomatch h⟩
theorem yield : Statement .yield := ⟨rfl, fun h => Bool.noConfusion h, fun h => nomatch h⟩
theorem exit (p : Pred) : Statement (.exit p) := ⟨rfl, fun h => Bool.noConfusion h, fun h => nomatch h⟩
theorem launch (s : BitVec 6) : Statement (.launch s) := ⟨rfl, fun h => Bool.noConfusion h, fun h => nomatch h⟩
theorem node (n : BitVec 24) : Statement (.node n) := ⟨rfl, fun h => Bool.noConfusion h, fun h => nomatch h⟩
theorem trap (p : Pred) (n : Byte) : Statement (.trap p n) := ⟨rfl, fun h => Bool.noConfusion h, fun h => nomatch h⟩
theorem bkpt (p : Pred) : Statement (.bkpt p) := ⟨rfl, fun h => Bool.noConfusion h, fun h => nomatch h⟩
theorem eretReplay : Statement .eretReplay := ⟨rfl, fun h => Bool.noConfusion h, fun h => nomatch h⟩
theorem eretResumeAtRpc : Statement .eretResumeAtRpc := ⟨rfl, fun h => Bool.noConfusion h, fun _ => rfl⟩
theorem eretEndWave : Statement .eretEndWave := ⟨rfl, fun h => Bool.noConfusion h, fun _ => rfl⟩
theorem macroOp (p : Pred) (n : BitVec 6) (fields : BitVec 46) : Statement (.macroOp p n fields) := ⟨rfl, fun h => Bool.noConfusion h, fun h => nomatch h⟩
theorem bundleIssue (core : Nat) : Statement (.bundleIssue core) := ⟨rfl, fun h => Bool.noConfusion h, fun _ => rfl⟩
theorem handlerStart (core wave : Nat) : Statement (.handlerStart core wave) := ⟨rfl, fun h => Bool.noConfusion h, fun _ => rfl⟩
theorem resultArrival (core wave : Nat) (x : Landing) : Statement (.resultArrival core wave x) := ⟨rfl, fun h => Bool.noConfusion h, fun _ => rfl⟩
theorem carriedOpIssue (core : Nat) : Statement (.carriedOpIssue core) := ⟨rfl, fun h => Bool.noConfusion h, fun _ => rfl⟩
theorem translateBlock (part pc : Nat) : Statement (.translateBlock part pc) := ⟨rfl, fun h => Bool.noConfusion h, fun _ => rfl⟩
theorem translationWalkReturn (core wave split : Nat) : Statement (.translationWalkReturn core wave split) := ⟨rfl, fun h => Bool.noConfusion h, fun _ => rfl⟩
theorem variableLoadCompletion (core id : Nat) (err : Lanes) : Statement (.variableLoadCompletion core id err) := ⟨rfl, fun h => Bool.noConfusion h, fun _ => rfl⟩
theorem fdivCompletion (core id : Nat) : Statement (.fdivCompletion core id) := ⟨rfl, fun h => Bool.noConfusion h, fun _ => rfl⟩
theorem atomicPerform (core id : Nat) (err : Lanes) : Statement (.atomicPerform core id err) := ⟨rfl, fun h => Bool.noConfusion h, fun _ => rfl⟩
theorem storePerform (core id : Nat) (err : Lanes) : Statement (.storePerform core id err) := ⟨rfl, fun h => Bool.noConfusion h, fun _ => rfl⟩
theorem fenceSatisfied (core id : Nat) : Statement (.fenceSatisfied core id) := ⟨rfl, fun h => Bool.noConfusion h, fun _ => rfl⟩
theorem flushCompletion (core id : Nat) : Statement (.flushCompletion core id) := ⟨rfl, fun h => Bool.noConfusion h, fun _ => rfl⟩
theorem bprefCompletion (core id : Nat) : Statement (.bprefCompletion core id) := ⟨rfl, fun h => Bool.noConfusion h, fun _ => rfl⟩
theorem prefCompletion (core id : Nat) : Statement (.prefCompletion core id) := ⟨rfl, fun h => Bool.noConfusion h, fun _ => rfl⟩
theorem ldsetCompletion (core id : Nat) (err : Nat) : Statement (.ldsetCompletion core id err) := ⟨rfl, fun h => Bool.noConfusion h, fun _ => rfl⟩
theorem waitaWake (core : Nat) (x : WaitRead) : Statement (.waitaWake core x) := ⟨rfl, fun h => Bool.noConfusion h, fun _ => rfl⟩
theorem waitaTimeout (core : Nat) (x : WaitRead) : Statement (.waitaTimeout core x) := ⟨rfl, fun h => Bool.noConfusion h, fun _ => rfl⟩
theorem waitaDetReread (core : Nat) (x : WaitRead) : Statement (.waitaDetReread core x) := ⟨rfl, fun h => Bool.noConfusion h, fun _ => rfl⟩
theorem taskStart (cluster array : Nat) : Statement (.taskStart cluster array) := ⟨rfl, fun h => Bool.noConfusion h, fun _ => rfl⟩
theorem pairedWindowBoundary (cluster : Nat) : Statement (.pairedWindowBoundary cluster) := ⟨rfl, fun h => Bool.noConfusion h, fun _ => rfl⟩
theorem taskCommit (cluster array : Nat) : Statement (.taskCommit cluster array) := ⟨rfl, fun h => Bool.noConfusion h, fun _ => rfl⟩
theorem taskCompletion (cluster array : Nat) : Statement (.taskCompletion cluster array) := ⟨rfl, fun h => Bool.noConfusion h, fun _ => rfl⟩
theorem taskFault (cluster array cause : Nat) : Statement (.taskFault cluster array cause) := ⟨rfl, fun h => Bool.noConfusion h, fun _ => rfl⟩
theorem sideportStart (cluster id : Nat) : Statement (.sideportStart cluster id) := ⟨rfl, fun h => Bool.noConfusion h, fun _ => rfl⟩
theorem sideportCompletion (cluster id : Nat) : Statement (.sideportCompletion cluster id) := ⟨rfl, fun h => Bool.noConfusion h, fun _ => rfl⟩
theorem emptyEngineOpTagSet (cluster id : Nat) : Statement (.emptyEngineOpTagSet cluster id) := ⟨rfl, fun h => Bool.noConfusion h, fun _ => rfl⟩
theorem copyStart (cluster id : Nat) : Statement (.copyStart cluster id) := ⟨rfl, fun h => Bool.noConfusion h, fun _ => rfl⟩
theorem cpyqEntryPush (cluster id : Nat) : Statement (.cpyqEntryPush cluster id) := ⟨rfl, fun h => Bool.noConfusion h, fun _ => rfl⟩
theorem cpyoEntryPop (cluster id : Nat) : Statement (.cpyoEntryPop cluster id) := ⟨rfl, fun h => Bool.noConfusion h, fun _ => rfl⟩
theorem copyCompletion (cluster id : Nat) : Statement (.copyCompletion cluster id) := ⟨rfl, fun h => Bool.noConfusion h, fun _ => rfl⟩
theorem copyFault (cluster id cause : Nat) : Statement (.copyFault cluster id cause) := ⟨rfl, fun h => Bool.noConfusion h, fun _ => rfl⟩
theorem collCompletion (cluster id : Nat) (agree : Bool) (data : List Byte) : Statement (.collCompletion cluster id agree data) := ⟨rfl, fun h => Bool.noConfusion h, fun _ => rfl⟩
theorem engineOrphan (cluster id : Nat) : Statement (.engineOrphan cluster id) := ⟨rfl, fun h => Bool.noConfusion h, fun _ => rfl⟩
theorem barrierOpen (grid key : Nat) : Statement (.barrierOpen grid key) := ⟨rfl, fun h => Bool.noConfusion h, fun _ => rfl⟩
theorem detOpeningDeadline (cluster grid : Nat) : Statement (.detOpeningDeadline cluster grid) := ⟨rfl, fun h => Bool.noConfusion h, fun _ => rfl⟩
theorem releaseGroup (cluster : Nat) : Statement (.releaseGroup cluster) := ⟨rfl, fun h => Bool.noConfusion h, fun _ => rfl⟩
theorem paddingOverrun (core id : Nat) : Statement (.paddingOverrun core id) := ⟨rfl, fun h => Bool.noConfusion h, fun _ => rfl⟩
theorem overrunHoldEnd (core : Nat) : Statement (.overrunHoldEnd core) := ⟨rfl, fun h => Bool.noConfusion h, fun _ => rfl⟩
theorem blockPlacement (grid : Nat) : Statement (.blockPlacement grid) := ⟨rfl, fun h => Bool.noConfusion h, fun _ => rfl⟩
theorem waveEnd (core wave : Nat) : Statement (.waveEnd core wave) := ⟨rfl, fun h => Bool.noConfusion h, fun _ => rfl⟩
theorem gridEnd (grid : Nat) : Statement (.gridEnd grid) := ⟨rfl, fun h => Bool.noConfusion h, fun _ => rfl⟩
theorem quantumExpiry (core : Nat) : Statement (.quantumExpiry core) := ⟨rfl, fun h => Bool.noConfusion h, fun _ => rfl⟩
theorem blockResume (core : Nat) : Statement (.blockResume core) := ⟨rfl, fun h => Bool.noConfusion h, fun _ => rfl⟩
theorem partitionAllocation (r : AllocReq) : Statement (.partitionAllocation r) := ⟨rfl, fun h => Bool.noConfusion h, fun _ => rfl⟩
theorem scrubCompletion (part : Nat) : Statement (.scrubCompletion part) := ⟨rfl, fun h => Bool.noConfusion h, fun _ => rfl⟩
theorem partitionFree (part : Nat) : Statement (.partitionFree part) := ⟨rfl, fun h => Bool.noConfusion h, fun _ => rfl⟩
theorem forcedSave (part : Nat) : Statement (.forcedSave part) := ⟨rfl, fun h => Bool.noConfusion h, fun _ => rfl⟩
theorem contextSwitch (part : Nat) : Statement (.contextSwitch part) := ⟨rfl, fun h => Bool.noConfusion h, fun _ => rfl⟩
theorem thermalPoll (temps : List Nat) : Statement (.thermalPoll temps) := ⟨rfl, fun h => Bool.noConfusion h, fun _ => rfl⟩
theorem powerAverageWindow (avg peak : Nat) : Statement (.powerAverageWindow avg peak) := ⟨rfl, fun h => Bool.noConfusion h, fun _ => rfl⟩
theorem throttleStep : Statement .throttleStep := ⟨rfl, fun h => Bool.noConfusion h, fun _ => rfl⟩
theorem clockStepChange (cluster : Nat) : Statement (.clockStepChange cluster) := ⟨rfl, fun h => Bool.noConfusion h, fun _ => rfl⟩
theorem boostIntervalBoundary : Statement .boostIntervalBoundary := ⟨rfl, fun h => Bool.noConfusion h, fun _ => rfl⟩
theorem energySpan (meters : List Nat) : Statement (.energySpan meters) := ⟨rfl, fun h => Bool.noConfusion h, fun _ => rfl⟩
theorem energyCommit : Statement .energyCommit := ⟨rfl, fun h => Bool.noConfusion h, fun _ => rfl⟩
theorem signedReadingRequest (part nonce : Nat) : Statement (.signedReadingRequest part nonce) := ⟨rfl, fun h => Bool.noConfusion h, fun _ => rfl⟩
theorem attestationRequest (nonce : Nat) : Statement (.attestationRequest nonce) := ⟨rfl, fun h => Bool.noConfusion h, fun _ => rfl⟩
theorem eolPrediction (w : Wear) : Statement (.eolPrediction w) := ⟨rfl, fun h => Bool.noConfusion h, fun _ => rfl⟩
theorem eyeMarginMeasurement (eyes : List Nat) : Statement (.eyeMarginMeasurement eyes) := ⟨rfl, fun h => Bool.noConfusion h, fun _ => rfl⟩
theorem coldReset (b : BootIn) : Statement (.coldReset b) := ⟨rfl, fun h => Bool.noConfusion h, fun _ => rfl⟩
theorem warmReset (b : BootIn) : Statement (.warmReset b) := ⟨rfl, fun h => Bool.noConfusion h, fun _ => rfl⟩
theorem watchdogReset (b : BootIn) : Statement (.watchdogReset b) := ⟨rfl, fun h => Bool.noConfusion h, fun _ => rfl⟩
theorem controlStoreUpdate (version : Nat) (store : StoreImage) : Statement (.controlStoreUpdate version store) := ⟨rfl, fun h => Bool.noConfusion h, fun _ => rfl⟩
theorem pwrctlWrite (v : W64) : Statement (.pwrctlWrite v) := ⟨rfl, fun h => Bool.noConfusion h, fun _ => rfl⟩
theorem boostWrite (cluster : Nat) (v : W64) : Statement (.boostWrite cluster v) := ⟨rfl, fun h => Bool.noConfusion h, fun _ => rfl⟩
theorem islopeWrite (cluster : Nat) (v : W64) : Statement (.islopeWrite cluster v) := ⟨rfl, fun h => Bool.noConfusion h, fun _ => rfl⟩
theorem islflrWrite (island : Nat) (v : W64) : Statement (.islflrWrite island v) := ⟨rfl, fun h => Bool.noConfusion h, fun _ => rfl⟩
theorem thrmWrite (n : Nat) (v : W64) : Statement (.thrmWrite n v) := ⟨rfl, fun h => Bool.noConfusion h, fun _ => rfl⟩
theorem sstgWrite (j : Nat) (v : W64) : Statement (.sstgWrite j v) := ⟨rfl, fun h => Bool.noConfusion h, fun _ => rfl⟩
theorem frrWrite (part which k : Nat) (v : W64) : Statement (.frrWrite part which k v) := ⟨rfl, fun h => Bool.noConfusion h, fun _ => rfl⟩
theorem ptrootWrite (part : Nat) (v : W64) : Statement (.ptrootWrite part v) := ⟨rfl, fun h => Bool.noConfusion h, fun _ => rfl⟩
theorem intraiseWrite (part : Nat) (v : W64) : Statement (.intraiseWrite part v) := ⟨rfl, fun h => Bool.noConfusion h, fun _ => rfl⟩
theorem rangeInvalidation (part : Nat) (v : W64) : Statement (.rangeInvalidation part v) := ⟨rfl, fun h => Bool.noConfusion h, fun _ => rfl⟩
theorem invalidationCompletion (part : Nat) : Statement (.invalidationCompletion part) := ⟨rfl, fun h => Bool.noConfusion h, fun _ => rfl⟩
theorem imgloadWrite (part : Nat) (v : W64) : Statement (.imgloadWrite part v) := ⟨rfl, fun h => Bool.noConfusion h, fun _ => rfl⟩
theorem registerWrite (part num : Nat) (v : W64) : Statement (.registerWrite part num v) := ⟨rfl, fun h => Bool.noConfusion h, fun _ => rfl⟩
theorem hostFlushCommand (addr len : Nat) (part : Nat) : Statement (.hostFlushCommand addr len part) := ⟨rfl, fun h => Bool.noConfusion h, fun _ => rfl⟩
theorem companionDeviceAccess (a : HostAcc) : Statement (.companionDeviceAccess a) := ⟨rfl, fun h => Bool.noConfusion h, fun _ => rfl⟩
theorem companionCisternAccess (a : HostAcc) : Statement (.companionCisternAccess a) := ⟨rfl, fun h => Bool.noConfusion h, fun _ => rfl⟩
theorem interruptAcknowledge (part n : Nat) : Statement (.interruptAcknowledge part n) := ⟨rfl, fun h => Bool.noConfusion h, fun _ => rfl⟩
theorem timeTransfer (ns : Nat) : Statement (.timeTransfer ns) := ⟨rfl, fun h => Bool.noConfusion h, fun _ => rfl⟩
theorem timeInputLoss : Statement .timeInputLoss := ⟨rfl, fun h => Bool.noConfusion h, fun _ => rfl⟩
theorem remoteRequestArrival (r : PeerReq) : Statement (.remoteRequestArrival r) := ⟨rfl, fun h => Bool.noConfusion h, fun _ => rfl⟩
theorem remoteWriteArrival (r : PeerReq) : Statement (.remoteWriteArrival r) := ⟨rfl, fun h => Bool.noConfusion h, fun _ => rfl⟩
theorem drainMarkerArrival (src count : Nat) : Statement (.drainMarkerArrival src count) := ⟨rfl, fun h => Bool.noConfusion h, fun _ => rfl⟩
theorem markerAcknowledge (src : Nat) : Statement (.markerAcknowledge src) := ⟨rfl, fun h => Bool.noConfusion h, fun _ => rfl⟩
theorem messageArrival (src ch epoch : Nat) (data : List W32) : Statement (.messageArrival src ch epoch data) := ⟨rfl, fun h => Bool.noConfusion h, fun _ => rfl⟩
theorem recvHoldTimeout (core id : Nat) : Statement (.recvHoldTimeout core id) := ⟨rfl, fun h => Bool.noConfusion h, fun _ => rfl⟩
theorem remoteTimeout (core id : Nat) : Statement (.remoteTimeout core id) := ⟨rfl, fun h => Bool.noConfusion h, fun _ => rfl⟩
theorem stationDown (n : Nat) : Statement (.stationDown n) := ⟨rfl, fun h => Bool.noConfusion h, fun _ => rfl⟩
theorem stationDegraded (n : Nat) : Statement (.stationDegraded n) := ⟨rfl, fun h => Bool.noConfusion h, fun _ => rfl⟩
theorem linkRetry (n : Nat) : Statement (.linkRetry n) := ⟨rfl, fun h => Bool.noConfusion h, fun _ => rfl⟩
theorem hingeLinkFailure : Statement .hingeLinkFailure := ⟨rfl, fun h => Bool.noConfusion h, fun _ => rfl⟩
theorem queueRecordError (cluster : Nat) (task : Bool) (id : Nat) : Statement (.queueRecordError cluster task id) := ⟨rfl, fun h => Bool.noConfusion h, fun _ => rfl⟩
theorem copyUnitError (cluster unit : Nat) : Statement (.copyUnitError cluster unit) := ⟨rfl, fun h => Bool.noConfusion h, fun _ => rfl⟩
theorem barrierUnitError (e : UnitError) : Statement (.barrierUnitError e) := ⟨rfl, fun h => Bool.noConfusion h, fun _ => rfl⟩
theorem powerLoss : Statement .powerLoss := ⟨rfl, fun h => Bool.noConfusion h, fun _ => rfl⟩
theorem lineReplacement (v : Victim) : Statement (.lineReplacement v) := ⟨rfl, fun h => Bool.noConfusion h, fun _ => rfl⟩
theorem drainCompletion (core id : Nat) : Statement (.drainCompletion core id) := ⟨rfl, fun h => Bool.noConfusion h, fun _ => rfl⟩
theorem sendCompletion (core id : Nat) : Statement (.sendCompletion core id) := ⟨rfl, fun h => Bool.noConfusion h, fun _ => rfl⟩
theorem recvCompletion (core id : Nat) : Statement (.recvCompletion core id) := ⟨rfl, fun h => Bool.noConfusion h, fun _ => rfl⟩
theorem contextCreation (r : CtxReq) : Statement (.contextCreation r) := ⟨rfl, fun h => Bool.noConfusion h, fun _ => rfl⟩

end Sys2Proof.Laws.Slots
end

