-- ==== Sys2Proof/Laws/State.lean ====
section
/-! SUPPORT. What each update of the state leaves alone, field by field, and what it makes of the cores, waves and splits. -/

namespace Sys2Proof.Machine.State

@[simp] theorem setCore_clusters (s : State) (a : Nat) (c : Core) : (s.setCore a c).clusters = s.clusters := rfl
@[simp] theorem setCore_mem (s : State) (a : Nat) (c : Core) : (s.setCore a c).mem = s.mem := rfl
@[simp] theorem setCore_parts (s : State) (a : Nat) (c : Core) : (s.setCore a c).parts = s.parts := rfl
@[simp] theorem setCore_grids (s : State) (a : Nat) (c : Core) : (s.setCore a c).grids = s.grids := rfl
@[simp] theorem setCore_pack (s : State) (a : Nat) (c : Core) : (s.setCore a c).pack = s.pack := rfl
@[simp] theorem setCore_nextId (s : State) (a : Nat) (c : Core) : (s.setCore a c).nextId = s.nextId := rfl
@[simp] theorem setCore_now (s : State) (a : Nat) (c : Core) : (s.setCore a c).now = s.now := rfl
@[simp] theorem setCore_fresh (s : State) (a : Nat) (c : Core) : (s.setCore a c).fresh = s.fresh := rfl
@[simp] theorem setCore_inputs (s : State) (a : Nat) (c : Core) : (s.setCore a c).inputs = s.inputs := rfl
@[simp] theorem setCore_issue (s : State) (a : Nat) (c : Core) : (s.setCore a c).issue = s.issue := rfl
@[simp] theorem setCore_cursor (s : State) (a : Nat) (c : Core) : (s.setCore a c).cursor = s.cursor := rfl
@[simp] theorem updCore_clusters (s : State) (a : Nat) (f : Core → Core) : (s.updCore a f).clusters = s.clusters := rfl
@[simp] theorem updCore_mem (s : State) (a : Nat) (f : Core → Core) : (s.updCore a f).mem = s.mem := rfl
@[simp] theorem updCore_parts (s : State) (a : Nat) (f : Core → Core) : (s.updCore a f).parts = s.parts := rfl
@[simp] theorem updCore_grids (s : State) (a : Nat) (f : Core → Core) : (s.updCore a f).grids = s.grids := rfl
@[simp] theorem updCore_pack (s : State) (a : Nat) (f : Core → Core) : (s.updCore a f).pack = s.pack := rfl
@[simp] theorem updCore_nextId (s : State) (a : Nat) (f : Core → Core) : (s.updCore a f).nextId = s.nextId := rfl
@[simp] theorem updCore_now (s : State) (a : Nat) (f : Core → Core) : (s.updCore a f).now = s.now := rfl
@[simp] theorem updCore_fresh (s : State) (a : Nat) (f : Core → Core) : (s.updCore a f).fresh = s.fresh := rfl
@[simp] theorem updCore_inputs (s : State) (a : Nat) (f : Core → Core) : (s.updCore a f).inputs = s.inputs := rfl
@[simp] theorem updCore_issue (s : State) (a : Nat) (f : Core → Core) : (s.updCore a f).issue = s.issue := rfl
@[simp] theorem updCore_cursor (s : State) (a : Nat) (f : Core → Core) : (s.updCore a f).cursor = s.cursor := rfl
@[simp] theorem setCluster_cores (s : State) (a : Nat) (c : Cluster) : (s.setCluster a c).cores = s.cores := rfl
@[simp] theorem setCluster_mem (s : State) (a : Nat) (c : Cluster) : (s.setCluster a c).mem = s.mem := rfl
@[simp] theorem setCluster_parts (s : State) (a : Nat) (c : Cluster) : (s.setCluster a c).parts = s.parts := rfl
@[simp] theorem setCluster_grids (s : State) (a : Nat) (c : Cluster) : (s.setCluster a c).grids = s.grids := rfl
@[simp] theorem setCluster_pack (s : State) (a : Nat) (c : Cluster) : (s.setCluster a c).pack = s.pack := rfl
@[simp] theorem setCluster_nextId (s : State) (a : Nat) (c : Cluster) : (s.setCluster a c).nextId = s.nextId := rfl
@[simp] theorem setCluster_now (s : State) (a : Nat) (c : Cluster) : (s.setCluster a c).now = s.now := rfl
@[simp] theorem setCluster_fresh (s : State) (a : Nat) (c : Cluster) : (s.setCluster a c).fresh = s.fresh := rfl
@[simp] theorem setCluster_inputs (s : State) (a : Nat) (c : Cluster) : (s.setCluster a c).inputs = s.inputs := rfl
@[simp] theorem setCluster_issue (s : State) (a : Nat) (c : Cluster) : (s.setCluster a c).issue = s.issue := rfl
@[simp] theorem setCluster_cursor (s : State) (a : Nat) (c : Cluster) : (s.setCluster a c).cursor = s.cursor := rfl
@[simp] theorem updCluster_cores (s : State) (a : Nat) (f : Cluster → Cluster) : (s.updCluster a f).cores = s.cores := rfl
@[simp] theorem updCluster_mem (s : State) (a : Nat) (f : Cluster → Cluster) : (s.updCluster a f).mem = s.mem := rfl
@[simp] theorem updCluster_parts (s : State) (a : Nat) (f : Cluster → Cluster) : (s.updCluster a f).parts = s.parts := rfl
@[simp] theorem updCluster_grids (s : State) (a : Nat) (f : Cluster → Cluster) : (s.updCluster a f).grids = s.grids := rfl
@[simp] theorem updCluster_pack (s : State) (a : Nat) (f : Cluster → Cluster) : (s.updCluster a f).pack = s.pack := rfl
@[simp] theorem updCluster_nextId (s : State) (a : Nat) (f : Cluster → Cluster) : (s.updCluster a f).nextId = s.nextId := rfl
@[simp] theorem updCluster_now (s : State) (a : Nat) (f : Cluster → Cluster) : (s.updCluster a f).now = s.now := rfl
@[simp] theorem updCluster_fresh (s : State) (a : Nat) (f : Cluster → Cluster) : (s.updCluster a f).fresh = s.fresh := rfl
@[simp] theorem updCluster_inputs (s : State) (a : Nat) (f : Cluster → Cluster) : (s.updCluster a f).inputs = s.inputs := rfl
@[simp] theorem updCluster_issue (s : State) (a : Nat) (f : Cluster → Cluster) : (s.updCluster a f).issue = s.issue := rfl
@[simp] theorem updCluster_cursor (s : State) (a : Nat) (f : Cluster → Cluster) : (s.updCluster a f).cursor = s.cursor := rfl
@[simp] theorem setWave_clusters (s : State) (a w : Nat) (x : Wave) : (s.setWave a w x).clusters = s.clusters := rfl
@[simp] theorem setWave_mem (s : State) (a w : Nat) (x : Wave) : (s.setWave a w x).mem = s.mem := rfl
@[simp] theorem setWave_parts (s : State) (a w : Nat) (x : Wave) : (s.setWave a w x).parts = s.parts := rfl
@[simp] theorem setWave_grids (s : State) (a w : Nat) (x : Wave) : (s.setWave a w x).grids = s.grids := rfl
@[simp] theorem setWave_pack (s : State) (a w : Nat) (x : Wave) : (s.setWave a w x).pack = s.pack := rfl
@[simp] theorem setWave_nextId (s : State) (a w : Nat) (x : Wave) : (s.setWave a w x).nextId = s.nextId := rfl
@[simp] theorem setWave_now (s : State) (a w : Nat) (x : Wave) : (s.setWave a w x).now = s.now := rfl
@[simp] theorem setWave_fresh (s : State) (a w : Nat) (x : Wave) : (s.setWave a w x).fresh = s.fresh := rfl
@[simp] theorem setWave_inputs (s : State) (a w : Nat) (x : Wave) : (s.setWave a w x).inputs = s.inputs := rfl
@[simp] theorem setWave_issue (s : State) (a w : Nat) (x : Wave) : (s.setWave a w x).issue = s.issue := rfl
@[simp] theorem setWave_cursor (s : State) (a w : Nat) (x : Wave) : (s.setWave a w x).cursor = s.cursor := rfl
@[simp] theorem updWave_clusters (s : State) (a w : Nat) (f : Wave → Wave) : (s.updWave a w f).clusters = s.clusters := rfl
@[simp] theorem updWave_mem (s : State) (a w : Nat) (f : Wave → Wave) : (s.updWave a w f).mem = s.mem := rfl
@[simp] theorem updWave_parts (s : State) (a w : Nat) (f : Wave → Wave) : (s.updWave a w f).parts = s.parts := rfl
@[simp] theorem updWave_grids (s : State) (a w : Nat) (f : Wave → Wave) : (s.updWave a w f).grids = s.grids := rfl
@[simp] theorem updWave_pack (s : State) (a w : Nat) (f : Wave → Wave) : (s.updWave a w f).pack = s.pack := rfl
@[simp] theorem updWave_nextId (s : State) (a w : Nat) (f : Wave → Wave) : (s.updWave a w f).nextId = s.nextId := rfl
@[simp] theorem updWave_now (s : State) (a w : Nat) (f : Wave → Wave) : (s.updWave a w f).now = s.now := rfl
@[simp] theorem updWave_fresh (s : State) (a w : Nat) (f : Wave → Wave) : (s.updWave a w f).fresh = s.fresh := rfl
@[simp] theorem updWave_inputs (s : State) (a w : Nat) (f : Wave → Wave) : (s.updWave a w f).inputs = s.inputs := rfl
@[simp] theorem updWave_issue (s : State) (a w : Nat) (f : Wave → Wave) : (s.updWave a w f).issue = s.issue := rfl
@[simp] theorem updWave_cursor (s : State) (a w : Nat) (f : Wave → Wave) : (s.updWave a w f).cursor = s.cursor := rfl
@[simp] theorem updPart_cores (s : State) (a : Nat) (f : Part → Part) : (s.updPart a f).cores = s.cores := rfl
@[simp] theorem updPart_clusters (s : State) (a : Nat) (f : Part → Part) : (s.updPart a f).clusters = s.clusters := rfl
@[simp] theorem updPart_mem (s : State) (a : Nat) (f : Part → Part) : (s.updPart a f).mem = s.mem := rfl
@[simp] theorem updPart_grids (s : State) (a : Nat) (f : Part → Part) : (s.updPart a f).grids = s.grids := rfl
@[simp] theorem updPart_pack (s : State) (a : Nat) (f : Part → Part) : (s.updPart a f).pack = s.pack := rfl
@[simp] theorem updPart_nextId (s : State) (a : Nat) (f : Part → Part) : (s.updPart a f).nextId = s.nextId := rfl
@[simp] theorem updPart_now (s : State) (a : Nat) (f : Part → Part) : (s.updPart a f).now = s.now := rfl
@[simp] theorem updPart_fresh (s : State) (a : Nat) (f : Part → Part) : (s.updPart a f).fresh = s.fresh := rfl
@[simp] theorem updPart_inputs (s : State) (a : Nat) (f : Part → Part) : (s.updPart a f).inputs = s.inputs := rfl
@[simp] theorem updPart_issue (s : State) (a : Nat) (f : Part → Part) : (s.updPart a f).issue = s.issue := rfl
@[simp] theorem updPart_cursor (s : State) (a : Nat) (f : Part → Part) : (s.updPart a f).cursor = s.cursor := rfl
@[simp] theorem updGrid_cores (s : State) (a : Nat) (f : Grid → Grid) : (s.updGrid a f).cores = s.cores := rfl
@[simp] theorem updGrid_clusters (s : State) (a : Nat) (f : Grid → Grid) : (s.updGrid a f).clusters = s.clusters := rfl
@[simp] theorem updGrid_mem (s : State) (a : Nat) (f : Grid → Grid) : (s.updGrid a f).mem = s.mem := rfl
@[simp] theorem updGrid_parts (s : State) (a : Nat) (f : Grid → Grid) : (s.updGrid a f).parts = s.parts := rfl
@[simp] theorem updGrid_pack (s : State) (a : Nat) (f : Grid → Grid) : (s.updGrid a f).pack = s.pack := rfl
@[simp] theorem updGrid_nextId (s : State) (a : Nat) (f : Grid → Grid) : (s.updGrid a f).nextId = s.nextId := rfl
@[simp] theorem updGrid_now (s : State) (a : Nat) (f : Grid → Grid) : (s.updGrid a f).now = s.now := rfl
@[simp] theorem updGrid_fresh (s : State) (a : Nat) (f : Grid → Grid) : (s.updGrid a f).fresh = s.fresh := rfl
@[simp] theorem updGrid_inputs (s : State) (a : Nat) (f : Grid → Grid) : (s.updGrid a f).inputs = s.inputs := rfl
@[simp] theorem updGrid_issue (s : State) (a : Nat) (f : Grid → Grid) : (s.updGrid a f).issue = s.issue := rfl
@[simp] theorem updGrid_cursor (s : State) (a : Nat) (f : Grid → Grid) : (s.updGrid a f).cursor = s.cursor := rfl
@[simp] theorem updMem_cores (s : State) (f : Mems → Mems) : (s.updMem f).cores = s.cores := rfl
@[simp] theorem updMem_clusters (s : State) (f : Mems → Mems) : (s.updMem f).clusters = s.clusters := rfl
@[simp] theorem updMem_parts (s : State) (f : Mems → Mems) : (s.updMem f).parts = s.parts := rfl
@[simp] theorem updMem_grids (s : State) (f : Mems → Mems) : (s.updMem f).grids = s.grids := rfl
@[simp] theorem updMem_pack (s : State) (f : Mems → Mems) : (s.updMem f).pack = s.pack := rfl
@[simp] theorem updMem_nextId (s : State) (f : Mems → Mems) : (s.updMem f).nextId = s.nextId := rfl
@[simp] theorem updMem_now (s : State) (f : Mems → Mems) : (s.updMem f).now = s.now := rfl
@[simp] theorem updMem_fresh (s : State) (f : Mems → Mems) : (s.updMem f).fresh = s.fresh := rfl
@[simp] theorem updMem_inputs (s : State) (f : Mems → Mems) : (s.updMem f).inputs = s.inputs := rfl
@[simp] theorem updMem_issue (s : State) (f : Mems → Mems) : (s.updMem f).issue = s.issue := rfl
@[simp] theorem updMem_cursor (s : State) (f : Mems → Mems) : (s.updMem f).cursor = s.cursor := rfl
@[simp] theorem updPack_cores (s : State) (f : Pack → Pack) : (s.updPack f).cores = s.cores := rfl
@[simp] theorem updPack_clusters (s : State) (f : Pack → Pack) : (s.updPack f).clusters = s.clusters := rfl
@[simp] theorem updPack_mem (s : State) (f : Pack → Pack) : (s.updPack f).mem = s.mem := rfl
@[simp] theorem updPack_parts (s : State) (f : Pack → Pack) : (s.updPack f).parts = s.parts := rfl
@[simp] theorem updPack_grids (s : State) (f : Pack → Pack) : (s.updPack f).grids = s.grids := rfl
@[simp] theorem updPack_nextId (s : State) (f : Pack → Pack) : (s.updPack f).nextId = s.nextId := rfl
@[simp] theorem updPack_now (s : State) (f : Pack → Pack) : (s.updPack f).now = s.now := rfl
@[simp] theorem updPack_fresh (s : State) (f : Pack → Pack) : (s.updPack f).fresh = s.fresh := rfl
@[simp] theorem updPack_inputs (s : State) (f : Pack → Pack) : (s.updPack f).inputs = s.inputs := rfl
@[simp] theorem updPack_issue (s : State) (f : Pack → Pack) : (s.updPack f).issue = s.issue := rfl
@[simp] theorem updPack_cursor (s : State) (f : Pack → Pack) : (s.updPack f).cursor = s.cursor := rfl
@[simp] theorem emit_cores (s : State) (m : OutMsg) : (s.emit m).cores = s.cores := rfl
@[simp] theorem emit_clusters (s : State) (m : OutMsg) : (s.emit m).clusters = s.clusters := rfl
@[simp] theorem emit_mem (s : State) (m : OutMsg) : (s.emit m).mem = s.mem := rfl
@[simp] theorem emit_parts (s : State) (m : OutMsg) : (s.emit m).parts = s.parts := rfl
@[simp] theorem emit_grids (s : State) (m : OutMsg) : (s.emit m).grids = s.grids := rfl
@[simp] theorem emit_nextId (s : State) (m : OutMsg) : (s.emit m).nextId = s.nextId := rfl
@[simp] theorem emit_now (s : State) (m : OutMsg) : (s.emit m).now = s.now := rfl
@[simp] theorem emit_fresh (s : State) (m : OutMsg) : (s.emit m).fresh = s.fresh := rfl
@[simp] theorem emit_inputs (s : State) (m : OutMsg) : (s.emit m).inputs = s.inputs := rfl
@[simp] theorem emit_issue (s : State) (m : OutMsg) : (s.emit m).issue = s.issue := rfl
@[simp] theorem emit_cursor (s : State) (m : OutMsg) : (s.emit m).cursor = s.cursor := rfl
@[simp] theorem updIss_clusters (s : State) (i : Issue) (f : Wave → Wave) : (s.updIss i f).clusters = s.clusters := rfl
@[simp] theorem updIss_mem (s : State) (i : Issue) (f : Wave → Wave) : (s.updIss i f).mem = s.mem := rfl
@[simp] theorem updIss_parts (s : State) (i : Issue) (f : Wave → Wave) : (s.updIss i f).parts = s.parts := rfl
@[simp] theorem updIss_grids (s : State) (i : Issue) (f : Wave → Wave) : (s.updIss i f).grids = s.grids := rfl
@[simp] theorem updIss_pack (s : State) (i : Issue) (f : Wave → Wave) : (s.updIss i f).pack = s.pack := rfl
@[simp] theorem updIss_nextId (s : State) (i : Issue) (f : Wave → Wave) : (s.updIss i f).nextId = s.nextId := rfl
@[simp] theorem updIss_now (s : State) (i : Issue) (f : Wave → Wave) : (s.updIss i f).now = s.now := rfl
@[simp] theorem updIss_fresh (s : State) (i : Issue) (f : Wave → Wave) : (s.updIss i f).fresh = s.fresh := rfl
@[simp] theorem updIss_inputs (s : State) (i : Issue) (f : Wave → Wave) : (s.updIss i f).inputs = s.inputs := rfl
@[simp] theorem updIss_issue (s : State) (i : Issue) (f : Wave → Wave) : (s.updIss i f).issue = s.issue := rfl
@[simp] theorem updIss_cursor (s : State) (i : Issue) (f : Wave → Wave) : (s.updIss i f).cursor = s.cursor := rfl
@[simp] theorem updIssSplit_clusters (s : State) (i : Issue) (f : Split → Split) : (s.updIssSplit i f).clusters = s.clusters := rfl
@[simp] theorem updIssSplit_mem (s : State) (i : Issue) (f : Split → Split) : (s.updIssSplit i f).mem = s.mem := rfl
@[simp] theorem updIssSplit_parts (s : State) (i : Issue) (f : Split → Split) : (s.updIssSplit i f).parts = s.parts := rfl
@[simp] theorem updIssSplit_grids (s : State) (i : Issue) (f : Split → Split) : (s.updIssSplit i f).grids = s.grids := rfl
@[simp] theorem updIssSplit_pack (s : State) (i : Issue) (f : Split → Split) : (s.updIssSplit i f).pack = s.pack := rfl
@[simp] theorem updIssSplit_nextId (s : State) (i : Issue) (f : Split → Split) : (s.updIssSplit i f).nextId = s.nextId := rfl
@[simp] theorem updIssSplit_now (s : State) (i : Issue) (f : Split → Split) : (s.updIssSplit i f).now = s.now := rfl
@[simp] theorem updIssSplit_fresh (s : State) (i : Issue) (f : Split → Split) : (s.updIssSplit i f).fresh = s.fresh := rfl
@[simp] theorem updIssSplit_inputs (s : State) (i : Issue) (f : Split → Split) : (s.updIssSplit i f).inputs = s.inputs := rfl
@[simp] theorem updIssSplit_issue (s : State) (i : Issue) (f : Split → Split) : (s.updIssSplit i f).issue = s.issue := rfl
@[simp] theorem updIssSplit_cursor (s : State) (i : Issue) (f : Split → Split) : (s.updIssSplit i f).cursor = s.cursor := rfl

/-! ### Cores, waves and splits after an update -/

@[simp] theorem get?_setCore (s : State) (a b : Nat) (c : Core) :
    NMap.get? (s.setCore a c).cores b = if b = a then some c else NMap.get? s.cores b := by
  by_cases h : b = a
  · subst h; simp [setCore]
  · simp [setCore, h, NMap.get?_put_other _ _ h]
@[simp] theorem get?_updCore (s : State) (a b : Nat) (f : Core → Core) :
    NMap.get? (s.updCore a f).cores b = if b = a then some (f (s.core a)) else NMap.get? s.cores b := get?_setCore ..
@[simp] theorem core_setCore (s : State) (a b : Nat) (c : Core) : (s.setCore a c).core b = if b = a then c else s.core b := by
  unfold core; rw [get?_setCore]; split <;> rfl
@[simp] theorem core_updCore (s : State) (a b : Nat) (f : Core → Core) :
    (s.updCore a f).core b = if b = a then f (s.core a) else s.core b := core_setCore ..
@[simp] theorem cluster_setCluster (s : State) (a b : Nat) (c : Cluster) :
    (s.setCluster a c).cluster b = if b = a then c else s.cluster b := by
  unfold cluster setCluster
  by_cases h : b = a
  · subst h; simp
  · simp [h, NMap.get?_put_other _ _ h]
@[simp] theorem cluster_updCluster (s : State) (a b : Nat) (f : Cluster → Cluster) :
    (s.updCluster a f).cluster b = if b = a then f (s.cluster a) else s.cluster b := cluster_setCluster ..
@[simp] theorem cluster_setCore (s : State) (a b : Nat) (c : Core) : (s.setCore a c).cluster b = s.cluster b := rfl
@[simp] theorem cluster_updCore (s : State) (a b : Nat) (f : Core → Core) : (s.updCore a f).cluster b = s.cluster b := rfl
@[simp] theorem core_setCluster (s : State) (a b : Nat) (c : Cluster) : (s.setCluster a c).core b = s.core b := rfl
@[simp] theorem core_updCluster (s : State) (a b : Nat) (f : Cluster → Cluster) : (s.updCluster a f).core b = s.core b := rfl
@[simp] theorem core_updMem (s : State) (b : Nat) (f : Mems → Mems) : (s.updMem f).core b = s.core b := rfl
@[simp] theorem core_updPack (s : State) (b : Nat) (f : Pack → Pack) : (s.updPack f).core b = s.core b := rfl
@[simp] theorem core_updPart (s : State) (a b : Nat) (f : Part → Part) : (s.updPart a f).core b = s.core b := rfl
@[simp] theorem core_updGrid (s : State) (a b : Nat) (f : Grid → Grid) : (s.updGrid a f).core b = s.core b := rfl

theorem wave?_updWave (s : State) (c w d x : Nat) (f : Wave → Wave) :
    (s.updWave c w f).wave? d x = if d = c ∧ x = w then (s.wave? c w).map f else s.wave? d x := by
  unfold updWave wave?
  rw [core_updCore]
  by_cases hd : d = c
  · subst hd
    simp only [if_true, true_and]
    by_cases hx : x = w
    · subst hx
      simp only [if_true, NMap.upd]
      cases h : NMap.get? (s.core d).waves x <;> simp [h]
    · simp only [hx, if_false, NMap.upd]
      cases h : NMap.get? (s.core d).waves w with
      | none => rfl
      | some y => simp [NMap.get?_put_other _ _ hx]
  · simp [hd]

/-- A wave that is there after an update of it. -/
theorem wave_updWave_same {s : State} {c w : Nat} {x : Wave} (f : Wave → Wave) (h : s.wave? c w = some x) :
    (s.updWave c w f).wave c w = f x := by
  unfold wave; rw [wave?_updWave]; simp [h]
theorem wave?_updWave_same {s : State} {c w : Nat} {x : Wave} (f : Wave → Wave) (h : s.wave? c w = some x) :
    (s.updWave c w f).wave? c w = some (f x) := by
  rw [wave?_updWave]; simp [h]
theorem wave?_updWave_other {s : State} {c w d x : Nat} (f : Wave → Wave) (h : ¬ (d = c ∧ x = w)) :
    (s.updWave c w f).wave? d x = s.wave? d x := by
  rw [wave?_updWave, if_neg h]
theorem wave_of {s : State} {c w : Nat} {x : Wave} (h : s.wave? c w = some x) : s.wave c w = x := by unfold wave; rw [h]; rfl

/-- An update of a wave that is not there changes nothing but the listing of its core. -/
theorem core_updWave (s : State) (c w d : Nat) (f : Wave → Wave) :
    (s.updWave c w f).core d = if d = c then { s.core c with waves := NMap.upd (s.core c).waves w f } else s.core d := core_updCore ..

end Sys2Proof.Machine.State

namespace Sys2Proof.Machine

theorem Wave.get?_updSplit (w : Wave) (n m : Nat) (f : Split → Split) :
    NMap.get? (w.updSplit n f).splits m = if m = n then (NMap.get? w.splits n).map f else NMap.get? w.splits m := by
  unfold Wave.updSplit NMap.upd
  by_cases h : m = n
  · subst h; cases e : NMap.get? w.splits m <;> simp [e]
  · cases e : NMap.get? w.splits n <;> simp [h, NMap.get?_put_other _ _ h]
theorem Wave.split_updSplit_same {w : Wave} {n : Nat} {sp : Split} (f : Split → Split) (h : NMap.get? w.splits n = some sp) :
    (w.updSplit n f).split n = f sp := by
  unfold Wave.split; rw [Wave.get?_updSplit]; simp [h]
theorem Wave.split_of {w : Wave} {n : Nat} {sp : Split} (h : NMap.get? w.splits n = some sp) : w.split n = sp := by
  unfold Wave.split; rw [h]; rfl
@[simp] theorem Wave.rest_updSplit (w : Wave) (n : Nat) (f : Split → Split) :
    ({ w.updSplit n f with splits := [], rngidx := 0#48 } : Wave) = { w with splits := [], rngidx := 0#48 } := rfl

end Sys2Proof.Machine
end

