-- ==== Sys2Proof/Laws/VSlot.lean ====
section
/-! SUPPORT. What the run of a V-slot operation can do, said once: lanes, the queues it pops, the result it puts in flight, the
random index. -/

namespace Sys2Proof.Machine

/-! ### Lanes -/

theorem mem_lanesOf {m : Lanes} {l : Nat} : l ∈ lanesOf m ↔ l < 64 ∧ m.getLsbD l = true := by
  simp [lanesOf, List.mem_filter, List.mem_range]

/-- A fold that writes one value per lane: every lane of the list reads its value, and the flags are those of the list. -/
theorem foldLanes (ls : List Nat) (val : Nat → W64) (fl : Nat → AFlags) (m0 : RMap) (f0 : AFlags)
    (r : RMap × AFlags) (hr : r = ls.foldl (fun acc l => (RMap.wr acc.1 l (val l), acc.2 ||| fl l)) (m0, f0)) :
    (∀ l ∈ ls, RMap.rd r.1 l = val l) ∧ (∀ l, l ∉ ls → RMap.rd r.1 l = RMap.rd m0 l) ∧
    (∀ k, r.2.getLsbD k = true ↔ f0.getLsbD k = true ∨ ∃ l ∈ ls, (fl l).getLsbD k = true) := by
  induction ls generalizing m0 f0 with
  | nil => subst hr; simp
  | cons a ls ih =>
    rw [List.foldl_cons] at hr
    obtain ⟨h2, h3, h4⟩ := ih _ _ hr
    refine ⟨?_, ?_, ?_⟩
    · intro l hl
      by_cases e : l ∈ ls
      · exact h2 l e
      · have hla : l = a := by simpa [e] using hl
        subst hla
        rw [h3 l e, RMap.rd_wr_same]
    · intro l hl
      simp only [List.mem_cons, not_or] at hl
      rw [h3 l hl.2, RMap.rd_wr_other _ _ hl.1]
    · intro k
      rw [h4 k]
      simp only [BitVec.getLsbD_or, Bool.or_eq_true, List.mem_cons, exists_eq_or_imp]
      tauto

theorem runLanes_vector (m : Lanes) (wide : Bool) (ops : Nat → Nat → Nat) (f : LaneFn) :
    (∀ l, l < 64 → m.getLsbD l = true →
      RMap.rd (runLanes m false wide ops f).1 l = element false wide (f (fun k => ops k l) l).1) ∧
    (∀ k, (runLanes m false wide ops f).2.getLsbD k = true ↔
      ∃ l, l < 64 ∧ m.getLsbD l = true ∧ ((f (fun k => ops k l) l).2).getLsbD k = true) := by
  have h := foldLanes (lanesOf m) (fun l => placed false wide (f (fun k => ops k l) l).1) (fun l => (f (fun k => ops k l) l).2)
    [] 0#6 (runLanes m false wide ops f) rfl
  refine ⟨fun l hl hm => h.1 l (mem_lanesOf.2 ⟨hl, hm⟩), fun k => ?_⟩
  rw [h.2.2 k]
  simp only [mem_lanesOf, and_assoc]
  simp

theorem runLanes_scalar {m : Lanes} (wide : Bool) (ops : Nat → Nat → Nat) (f : LaneFn) (h : m ≠ 0#64) :
    RMap.rd (runLanes m true wide ops f).1 0 = element true wide (f (fun k => ops k 0) 0).1 ∧
    (runLanes m true wide ops f).2 = (f (fun k => ops k 0) 0).2 := by
  unfold runLanes
  rw [if_pos rfl, if_neg h]
  exact ⟨RMap.rd_wr_same .., rfl⟩
/-- A scalar operation without an active lane raises no flag. -/
theorem runLanes_idle (wide : Bool) (ops : Nat → Nat → Nat) (f : LaneFn) : runLanes 0#64 true wide ops f = ([], 0#6) := rfl

/-! ### A bundle being executed -/

theorem Executing.wave {s : State} {i : Issue} (h : Executing s i) :
    ∃ w sp, s.wave? i.core i.wave = some w ∧ NMap.get? w.splits i.split = some sp := by
  obtain ⟨_, c, w, sp, hc, hw, hs⟩ := h
  refine ⟨w, sp, ?_, hs⟩
  unfold State.wave? State.core; rw [hc]; exact hw

/-- A slot operation that raises no trap has its effect. -/
theorem slotOp_runs {s : State} {i : Issue} {bad : Issue → Option TrapInfo} {eff : Issue → State} (h : s.issue = some i)
    (hb : bad i = none) : s.slotOp bad eff = .next (eff i) := by
  unfold State.slotOp; rw [h]; simp [hb]
/-- A slot operation that raises a trap takes it. -/
theorem slotOp_traps {s : State} {i : Issue} {bad : Issue → Option TrapInfo} {eff : Issue → State} {t : TrapInfo}
    (h : s.issue = some i) (hb : bad i = some t) : s.slotOp bad eff = .next (s.trapIssue i t) := by
  unfold State.slotOp; rw [h]; simp [hb]

/-! ### Queues -/

/-- Only the queues of a core may differ, each as a function of its number says. -/
structure QueueStep (s t : State) (core : Nat) (f : Nat → OpQueue → OpQueue) : Prop where
  only : OnlyCores s t
  other : OtherCores s t core
  waves : (t.core core).waves = (s.core core).waves
  rest : (t.core core).rest = (s.core core).rest
  queues : ∀ n, NMap.get? (t.core core).queues n = (NMap.get? (s.core core).queues n).map (f n)
  nextId : t.nextId = s.nextId
  fresh : t.fresh = s.fresh

theorem QueueStep.refl (s : State) (core : Nat) : QueueStep s s core (fun _ q => q) :=
  ⟨⟨rfl, rfl, rfl, rfl, rfl, rfl, rfl, rfl, rfl⟩, fun _ _ => rfl, rfl, rfl, fun n => by simp, rfl, rfl⟩

theorem OnlyCores.trans {s t u : State} (h : OnlyCores s t) (g : OnlyCores t u) : OnlyCores s u := by
  obtain ⟨a1, a2, a3, a4, a5, a6, a7, a8, a9⟩ := h
  obtain ⟨b1, b2, b3, b4, b5, b6, b7, b8, b9⟩ := g
  exact ⟨b1.trans a1, b2.trans a2, b3.trans a3, b4.trans a4, b5.trans a5, b6.trans a6, b7.trans a7, b8.trans a8, b9.trans a9⟩

theorem QueueStep.trans {s t u : State} {core : Nat} {f g : Nat → OpQueue → OpQueue} (h : QueueStep s t core f) (k : QueueStep t u core g) :
    QueueStep s u core (fun n q => g n (f n q)) :=
  ⟨h.only.trans k.only, fun c hc => (k.other c hc).trans (h.other c hc), k.waves.trans h.waves, k.rest.trans h.rest,
   fun n => by rw [k.queues, h.queues, Option.map_map]; rfl, k.nextId.trans h.nextId, k.fresh.trans h.fresh⟩

theorem QueueStep.congr {s t : State} {core : Nat} {f g : Nat → OpQueue → OpQueue} (h : QueueStep s t core f) (e : ∀ n q, f n q = g n q) :
    QueueStep s t core g := by
  obtain rfl : f = g := funext fun n => funext fun q => e n q
  exact h

/-- One queue of a core changes by a function. -/
theorem QueueStep.updQ (s : State) (core n : Nat) (f : Core → Core) (g : OpQueue → OpQueue) (h1 : ∀ c, (f c).waves = c.waves)
    (h2 : ∀ c, (f c).rest = c.rest) (h3 : ∀ c, (f c).queues = NMap.upd c.queues n g) :
    QueueStep s (s.updCore core f) core (fun m q => if m = n then g q else q) :=
  ⟨⟨rfl, rfl, rfl, rfl, rfl, rfl, rfl, rfl, rfl⟩, fun c hc => by simp [hc], by simp [h1], by simp [h2],
   fun m => by
     simp only [State.core_updCore, if_pos, h3, NMap.get?_upd]
     split
     · rename_i e; subst e; rfl
     · simp, rfl, rfl⟩

theorem OpQueue.popped_succ (q : OpQueue) (k : Nat) : ({ q with head := (q.head + 1) % 8, ents := q.ents.tail } : OpQueue).popped k = q.popped (k + 1) := by
  cases k with
  | zero => simp [OpQueue.popped]
  | succ k =>
    simp only [OpQueue.popped, Nat.succ_ne_zero, if_false, ← List.drop_one, List.drop_drop]
    congr 1 <;> first | omega | (congr 1; omega)

theorem popAll_step (s : State) (i : Issue) (v : VInfo) :
    QueueStep s (s.popAll i v) i.core (fun n q => q.popped (v.queues.filter (fun m => m.toNat == n)).length) := by
  unfold State.popAll
  generalize v.queues = l
  induction l generalizing s with
  | nil => exact (QueueStep.refl s i.core).congr (fun n q => by simp [OpQueue.popped])
  | cons q l ih =>
    rw [List.foldl_cons]
    refine ((QueueStep.updQ s i.core q.toNat (fun c => c.popQ q.toNat) _ (fun _ => rfl) (fun _ => rfl) (fun _ => rfl)).trans (ih _)).congr ?_
    intro n x
    by_cases h : n = q.toNat
    · subst h
      rw [if_pos rfl, OpQueue.popped_succ]
      simp
    · rw [if_neg h]
      simp [Ne.symm h]

theorem Core.reserveQ_queues (c : Core) (n : Nat) : (c.reserveQ n).2.queues = NMap.upd c.queues n OpQueue.reserved := by
  unfold Core.reserveQ NMap.upd
  split
  · rename_i q h; rw [h]; rfl
  · rename_i h; rw [h]

theorem destOf_step (s : State) (i : Issue) (d : Opnd) (wide : Bool) :
    QueueStep s (s.destOf i d wide).2 i.core (fun n q => if namesQueue n d then q.reserved else q) ∧ destIs i (some d) wide none (s.destOf i d wide).1 := by
  have same : (∀ n, namesQueue n d = false) → QueueStep s s i.core (fun n q => if namesQueue n d then q.reserved else q) :=
    fun h => (QueueStep.refl s i.core).congr (fun n q => by simp [h n])
  cases d with
  | q n =>
    refine ⟨?_, ⟨_, rfl⟩⟩
    unfold State.destOf
    have : QueueStep s (s.updCore i.core (fun c => (c.reserveQ n.toNat).2)) i.core _ :=
      QueueStep.updQ s i.core n.toNat _ _ (fun c => by unfold Core.reserveQ; split <;> rfl)
        (fun c => by unfold Core.reserveQ; split <;> rfl) (fun c => Core.reserveQ_queues c _)
    exact this.congr (fun m q => by simp only [namesQueue, beq_iff_eq, eq_comm (a := m)])
  | v n => exact ⟨same (fun _ => rfl), rfl⟩
  | s n => exact ⟨same (fun _ => rfl), rfl⟩
  | fv k => exact ⟨same (fun _ => rfl), rfl⟩
  | fm k => exact ⟨same (fun _ => rfl), rfl⟩
  | x n => exact ⟨same (fun _ => rfl), rfl⟩

/-! ### The result in flight -/

/-- Only the split of the bundle and its wave's random index may differ, besides numbers. -/
structure SplitStep (s t : State) (i : Issue) : Prop where
  only : OnlyCores s t
  other : OtherCores s t i.core
  waves : OtherWaves s t i.core i.wave
  splits : OtherSplits s t i
  core : (t.core i.core).rest = (s.core i.core).rest
  queues : (t.core i.core).queues = (s.core i.core).queues
  wave : (t.waveAt i).rest = (s.waveAt i).rest
  there : ∃ w sp, t.wave? i.core i.wave = some w ∧ NMap.get? w.splits i.split = some sp

theorem updIss_step {s : State} {i : Issue} {w : Wave} {sp : Split} (h : s.wave? i.core i.wave = some w)
    (hs : NMap.get? w.splits i.split = some sp) (f : Wave → Wave) (hr : (f w).rest = w.rest)
    (hf : ∀ n, n ≠ i.split → NMap.get? (f w).splits n = NMap.get? w.splits n) (ht : ∃ sp', NMap.get? (f w).splits i.split = some sp') :
    SplitStep s (s.updIss i f) i := by
  have hw : (s.updIss i f).wave? i.core i.wave = some (f w) := State.wave?_updWave_same f h
  refine ⟨⟨rfl, rfl, rfl, rfl, rfl, rfl, rfl, rfl, rfl⟩, fun c hc => by simp [State.updIss, State.updWave, hc], ?_, ?_, ?_, ?_, ?_, ?_⟩
  · intro x hx; exact State.wave?_updWave_other f (by simp [hx])
  · intro n hn
    show NMap.get? (State.wave _ _ _).splits n = NMap.get? (State.wave _ _ _).splits n
    rw [State.wave_of hw, State.wave_of h]; exact hf n hn
  · simp [State.updIss, State.core_updWave, Core.rest]
  · simp [State.updIss, State.core_updWave]
  · show (State.wave _ _ _).rest = (State.wave _ _ _).rest
    rw [State.wave_of hw, State.wave_of h]; exact hr
  · obtain ⟨sp', hsp⟩ := ht; exact ⟨f w, sp', hw, hsp⟩

theorem OtherSplits.trans {s t u : State} {i : Issue} (h : OtherSplits s t i) (g : OtherSplits t u i) : OtherSplits s u i :=
  fun n hn => (g n hn).trans (h n hn)
theorem SplitStep.trans {s t u : State} {i : Issue} (h : SplitStep s t i) (g : SplitStep t u i) : SplitStep s u i :=
  ⟨h.only.trans g.only, fun c hc => (g.other c hc).trans (h.other c hc), fun x hx => (g.waves x hx).trans (h.waves x hx),
   h.splits.trans g.splits, g.core.trans h.core, g.queues.trans h.queues, g.wave.trans h.wave, g.there⟩
/-- Numbers of new things and of free values are no part of what a step observes. -/
theorem SplitStep.numbers {s t : State} {i : Issue} (h : SplitStep s t i) (a b : Nat) : SplitStep s { t with nextId := a, fresh := b } i :=
  ⟨h.only, h.other, h.waves, h.splits, h.core, h.queues, h.wave, h.there⟩

theorem updIssSplit_step {s : State} {i : Issue} {w : Wave} {sp : Split} (h : s.wave? i.core i.wave = some w)
    (hs : NMap.get? w.splits i.split = some sp) (f : Split → Split) :
    SplitStep s (s.updIssSplit i f) i ∧ (s.updIssSplit i f).splitAt i = f sp := by
  refine ⟨updIss_step h hs _ rfl (fun n hn => by rw [Wave.get?_updSplit, if_neg hn]) ⟨f sp, by rw [Wave.get?_updSplit, if_pos rfl, hs]; rfl⟩, ?_⟩
  show (State.wave _ _ _).split _ = _
  unfold State.updIssSplit State.updIss
  rw [State.wave_updWave_same _ h, Wave.split_updSplit_same f hs]

theorem splitAt_of {s : State} {i : Issue} {w : Wave} {sp : Split} (h : s.wave? i.core i.wave = some w)
    (hs : NMap.get? w.splits i.split = some sp) : s.splitAt i = sp := by
  unfold State.splitAt State.waveAt; rw [State.wave_of h, Wave.split_of hs]

/-- The random index of a draw: one step outside an expansion; nothing else but the mark of the expansion. -/
theorem stepRng_step {s : State} {i : Issue} {w : Wave} {sp : Split} (h : s.wave? i.core i.wave = some w)
    (hs : NMap.get? w.splits i.split = some sp) (rng : Bool) :
    SplitStep s (s.stepRng i rng) i ∧ RngMoves s (s.stepRng i rng) i rng ∧
    ((s.stepRng i rng).splitAt i).win = sp.win ∧ ((s.stepRng i rng).splitAt i).rest = sp.rest := by
  have base : SplitStep s s i ∧ (s.splitAt i).win = sp.win ∧ (s.splitAt i).rest = sp.rest :=
    ⟨⟨⟨rfl, rfl, rfl, rfl, rfl, rfl, rfl, rfl, rfl⟩, fun _ _ => rfl, fun _ _ => rfl, fun _ _ => rfl, rfl, rfl, rfl, ⟨w, sp, h, hs⟩⟩,
     by rw [splitAt_of h hs], by rw [splitAt_of h hs]⟩
  have bump : ∀ f : Wave → Wave, (∀ x, (f x).rest = x.rest) → (∀ x, (f x).splits = x.splits) →
      SplitStep s (s.updIss i f) i ∧ ((s.updIss i f).splitAt i) = sp := by
    intro f h1 h2
    refine ⟨updIss_step h hs f (h1 w) (fun n _ => by rw [h2]) ⟨sp, by rw [h2]; exact hs⟩, ?_⟩
    show (State.wave _ _ _).split _ = _
    unfold State.updIss
    rw [State.wave_updWave_same f h]
    exact Wave.split_of (by rw [h2]; exact hs)
  unfold State.stepRng
  cases rng with
  | false => exact ⟨base.1, fun _ => rfl, base.2.1, base.2.2⟩
  | true =>
    rw [if_neg (by simp)]
    by_cases hm : i.inMacro = true
    · rw [if_pos hm]
      split
      · rename_i m _
        have k := updIssSplit_step h hs (fun sp => { sp with mpc := some (m % rngMark + rngMark) })
        exact ⟨k.1, fun hx => by simp [hm] at hx, by simp [k.2], by simp [k.2, Split.rest]⟩
      · split
        · exact ⟨base.1, fun hx => by simp [hm] at hx, base.2.1, base.2.2⟩
        · have k := bump (fun w => { w with rngidx := w.rngidx + 1 }) (fun _ => rfl) (fun _ => rfl)
          exact ⟨k.1, fun hx => by simp [hm] at hx, congrArg Split.win k.2, congrArg Split.rest k.2⟩
    · have k := bump (fun w => { w with rngidx := w.rngidx + 1 }) (fun _ => rfl) (fun _ => rfl)
      rw [if_neg hm]
      refine ⟨k.1, fun _ => ?_, congrArg Split.win k.2, congrArg Split.rest k.2⟩
      show (State.wave _ _ _).rngidx = (State.wave _ _ _).rngidx + 1
      unfold State.updIss
      rw [State.wave_updWave_same _ h, State.wave_of h]

theorem QueueStep.wave? {s t : State} {core : Nat} {f : Nat → OpQueue → OpQueue} (h : QueueStep s t core f) (d x : Nat) :
    t.wave? d x = s.wave? d x := by
  unfold State.wave?
  by_cases e : d = core
  · subst e; rw [h.waves]
  · unfold State.core; rw [h.other d e]
theorem QueueStep.waveAt {s t : State} {i : Issue} {core : Nat} {f : Nat → OpQueue → OpQueue} (h : QueueStep s t core f) :
    t.waveAt i = s.waveAt i := by
  unfold State.waveAt State.wave; rw [h.wave?]

/-- All that a V-slot operation of fixed latency whose values are given does. -/
theorem vPut_does {s : State} {i : Issue} (hx : Executing s i) (v : VInfo) (pd : Option Nat) (rng : Bool) (r : RMap × AFlags)
    (f : Nat → Int × AFlags)
    (hsc : v.isScalar = true → i.act v.p ≠ 0#64 → RMap.rd r.1 0 = element true v.dwide (f 0).1 ∧ r.2 = (f 0).2)
    (hid : v.isScalar = true → i.act v.p = 0#64 → r.2 = 0#6)
    (hve : v.isScalar = false →
      (∀ l, l < 64 → (i.act v.p).getLsbD l = true → RMap.rd r.1 l = element false v.dwide (f l).1) ∧
      (∀ k, r.2.getLsbD k = true ↔ ∃ l, l < 64 ∧ (i.act v.p).getLsbD l = true ∧ ((f l).2).getLsbD k = true)) :
    VDoes s (s.vPut i v pd rng r) i v pd rng f := by
  obtain ⟨w, sp, hw, hs⟩ := hx.wave
  have q1 := popAll_step s i v
  -- the destination
  obtain ⟨d, hd, q2⟩ : ∃ d : Dest × State, (match pd, v.dst with
      | some n, _ => (Dest.p n, s.popAll i v)
      | none, some o => (s.popAll i v).destOf i o v.dwide
      | none, none => (Dest.none, s.popAll i v)) = d ∧
      (QueueStep (s.popAll i v) d.2 i.core (fun n q => if pd = none ∧ v.dst.any (namesQueue n) = true then q.reserved else q) ∧
        destIs i v.dst v.dwide pd d.1) := by
    refine ⟨_, rfl, ?_⟩
    split
    · exact ⟨(QueueStep.refl _ _).congr (fun n q => by simp), by cases v.dst <;> rfl⟩
    · rename_i o ho
      have k := destOf_step (s.popAll i v) i o v.dwide
      rw [ho]
      exact ⟨k.1.congr (fun n q => by simp), k.2⟩
    · rename_i ho; rw [ho]; exact ⟨(QueueStep.refl _ _).congr (fun n q => by simp), rfl⟩
  have q := q1.trans q2.1
  have hw' : d.2.wave? i.core i.wave = some w := by rw [q.wave?]; exact hw
  -- the launch
  let m := effMask v.isScalar (i.act v.p)
  let lat := vLat (s.ratio i.core) v.cls + i.pen
  let res : FRes := { id := d.2.nextId, isn := i.isn, mem := false, rem := lat, arrived := false, dest := d.1, mask := m, live := m,
                      wide := v.dwide, scalar := v.isScalar, vals := r.1, flags := r.2, out := i.pre.carriedNow, pc := i.sp.pc }
  have kl := updIssSplit_step (s := { d.2 with nextId := d.2.nextId + 1 }) hw' hs
    (fun sp => let sp := sp.kill d.1 m; { sp with win := sp.win ++ [res] })
  have el : d.2.launchRes i false lat d.1 m v.dwide v.isScalar r.1 r.2 = State.updIssSplit { d.2 with nextId := d.2.nextId + 1 } i
    (fun sp => let sp := sp.kill d.1 m; { sp with win := sp.win ++ [res] }) := rfl
  have e : s.vPut i v pd rng r = { ((d.2.launchRes i false lat d.1 m v.dwide v.isScalar r.1 r.2).stepRng i rng) with
      fresh := (s.popAll i v).fresh + 256 } := by
    subst hd; rfl
  rw [el] at e
  obtain ⟨w2, sp2, hw2, hs2⟩ := kl.1.there
  have kr := stepRng_step hw2 hs2 rng
  have hsp2 : sp2 = _ := (splitAt_of hw2 hs2).symm.trans kl.2
  have st := kl.1.trans kr.1
  have hspl : s.splitAt i = sp := splitAt_of hw hs
  rw [e]
  refine ⟨⟨res, ?_, q2.2, rfl, rfl, rfl, rfl, rfl, rfl, rfl, ?_, ?_⟩, ⟨?_, ?_, ?_, ?_, ?_, ?_, ?_⟩, ?_, ?_⟩
  · have := kr.2.2.1
    rw [hspl]
    show ((State.stepRng _ i rng).splitAt i).win = _
    rw [this, hsp2]
  · intro hsv
    refine ⟨by show effMask _ _ = _; rw [hsv]; rfl, hid hsv, hsc hsv⟩
  · intro hsv
    refine ⟨by show effMask _ _ = _; rw [hsv]; rfl, hve hsv⟩
  · exact (q.only.trans (u := { d.2 with nextId := d.2.nextId + 1 }) ⟨rfl, rfl, rfl, rfl, rfl, rfl, rfl, rfl, rfl⟩).trans st.only
  · intro c hc; exact (st.other c hc).trans (q.other c hc)
  · intro x hx; exact (st.waves x hx).trans (q.wave? _ _)
  · intro n hn
    refine (st.splits n hn).trans ?_
    show NMap.get? (State.waveAt d.2 i).splits n = _
    rw [q.waveAt]
  · exact st.core.trans q.rest
  · refine st.wave.trans ?_
    show (State.waveAt d.2 i).rest = _
    rw [q.waveAt]
  · have := kr.2.2.2
    rw [hspl]
    show ((State.stepRng _ i rng).splitAt i).rest = _
    rw [this, hsp2]
    rfl
  · intro hm
    have := kr.2.1 hm
    refine Eq.trans this ?_
    have a : (State.waveAt (State.updIssSplit { d.2 with nextId := d.2.nextId + 1 } i
      (fun sp => let sp := sp.kill d.1 m; { sp with win := sp.win ++ [res] })) i).rngidx = (s.waveAt i).rngidx := by
      show (State.wave _ _ _).rngidx = (State.wave _ _ _).rngidx
      unfold State.updIssSplit State.updIss
      rw [State.wave_updWave_same (s := { d.2 with nextId := d.2.nextId + 1 }) _ hw', State.wave_of hw]
      rfl
    rw [a]
  · exact fun n => (congrArg (fun x => NMap.get? x n) st.queues).trans (q.queues n)

/-- A V-slot operation of fixed latency that computes lane by lane completes with the values of its function. -/
theorem vRun_does {s : State} {i : Issue} (hx : Executing s i) (v : VInfo) (pd : Option Nat) (rng : Bool) (f : Issue → LaneFn) :
    ∃ t, s.vRun v pd rng f = .next t ∧ VDoes s t i v pd rng (fun l => f i (fun k => s.vOperand i v k l) l) := by
  refine ⟨_, slotOp_runs hx.1 rfl, vPut_does hx v pd rng _ _ (fun hs ha => ?_) (fun hs ha => ?_) (fun hs => ?_)⟩
  · rw [hs]; exact runLanes_scalar _ _ _ ha
  · rw [hs, ha]; rfl
  · rw [hs]; exact runLanes_vector _ _ _ _

end Sys2Proof.Machine
end

