-- ==== Sys2Proof/Tests/Slice0.lean ====
section
/-! SUPPORT. Tests: ill-formed terms that are refused, words written out from the encodings, worked examples of the manual, and for every
clause of a statement a state and operands that meet its hypotheses. -/

namespace Sys2Proof.Tests
open Sys2Proof.Machine Sys2Proof.Spec

set_option maxRecDepth 100000
set_option Elab.async false



/-! ### Well-formedness -/

def pT : Pred := ⟨false, 0#3⟩
/-- p0 negated: no lane. -/
def pNo : Pred := ⟨true, 0#3⟩
def sv (n : BitVec 7) : Src := ⟨.v n, false⟩
def un (d : Opnd) (a : Src) : Un := ⟨pT, d, a⟩
def bin (d : Opnd) (a b : Src) : Bin := ⟨pT, d, a, b⟩
def tern (d : Opnd) (a b c : Src) : Tern := ⟨pT, d, a, b, c⟩
def u0 : Un := un (.v 4#7) (sv 1#7)
def b0 : Bin := bin (.v 4#7) (sv 2#7) (sv 6#7)
def t0 : Tern := tern (.v 4#7) (sv 2#7) (sv 6#7) (sv 8#7)
def mem0 : Mem := ⟨pT, .v 8#7, false, .s 4#6, 0x40#16, .w32, .s, .none, .cd⟩
def atom0 : Atom := ⟨pT, .v 6#7, .s 8#6, .rel, 0x10#14, .g, .b, .i32⟩
def x0 : XOp := ⟨pT, 16#6, 5#6, .t2 1#6 2#6⟩

/-- Operands of the V slot: registers of a pair, queues, constants, marks, scalar forms, types and formats. -/
theorem test_wf_v_refused :
    Instr.wf (.iadd (bin (.v 5#7) (sv 2#7) (sv 6#7)) .i64 false) = false ∧ Instr.wf (.iadd (bin (.v 4#7) (sv 3#7) (sv 6#7)) .n64 false) = false ∧
    Instr.wf (.iadd (bin (.v 4#7) ⟨.q 1#4, false⟩ (sv 6#7)) .n64 false) = false ∧ Instr.wf (.fadd (bin (.v 4#7) ⟨.x 7#5, false⟩ (sv 6#7)) .f32 .rn false) = false ∧
    Instr.wf (.fadd (bin (.v 4#7) ⟨.v 2#7, true⟩ (sv 6#7)) .f32 .rn false) = false ∧ Instr.wf (.fadd (bin (.x 1#5) (sv 2#7) (sv 6#7)) .f32 .rn false) = false ∧
    Instr.wf (.fadd (bin (.fv 0#3) (sv 2#7) (sv 6#7)) .f32 .rn false) = false ∧
    Instr.wf (.fadd (bin (.v 4#7) ⟨.q 1#4, false⟩ ⟨.q 1#4, false⟩) .f32 .rn false) = false ∧
    Instr.wf (.fadd (bin (.s 4#6) (sv 2#7) ⟨.s 6#6, false⟩) .f32 .rn false) = false ∧
    Instr.wf (.shuf (bin (.s 4#6) ⟨.s 5#6, false⟩ ⟨.s 6#6, false⟩) false) = false ∧
    Instr.wf (.fcvt u0 (.p3109 .signed 0#3) (.ieee .f32) .rn false) = false ∧ Instr.wf (.ftoi u0 (.p3109 .extended 0#3) .i32 .rn) = false ∧
    Instr.wf (.itof u0 .i32 (.p3109 .unsigned 0#3) .rn false) = false ∧
    Instr.wf (.fdiv (bin (.q 1#4) (sv 2#7) (sv 6#7)) .f32 .rn .a) = false ∧ Instr.wf (.afcp (bin (.q 1#4) (sv 2#7) (sv 6#7))) = false := by decide +kernel
theorem test_wf_v_types_refused :
    Instr.wf (.imul b0 .i8 false) = false ∧ Instr.wf (.imulh b0 .n16) = false ∧ Instr.wf (.imad t0 .i16 false) = false ∧ Instr.wf (.iabs u0 .n32 false) = false ∧
    Instr.wf (.and b0 .i8) = false ∧ Instr.wf (.or b0 .i8) = false ∧ Instr.wf (.xor b0 .i8) = false ∧ Instr.wf (.andn b0 .i8) = false ∧
    Instr.wf (.shl b0 .n8) = false ∧ Instr.wf (.shr b0 .n8) = false ∧ Instr.wf (.sar b0 .n8) = false ∧ Instr.wf (.rotl b0 .n8) = false ∧
    Instr.wf (.popc u0 .i16) = false ∧ Instr.wf (.clz u0 .i16) = false ∧ Instr.wf (.brev u0 .i16) = false ∧ Instr.wf (.bfe t0 .i16) = false ∧
    Instr.wf (.lbrd b0 false) = false ∧ Instr.wf (.rowb b0 false) = false ∧ Instr.wf (.colb b0 false) = false ∧
    Instr.wf (.lred u0 (.i .i64) .row .add .rn) = false ∧ Instr.wf (.lred u0 (.f .f32) .row .or .rn) = false ∧ Instr.wf (.lred u0 (.f .f32) .row .add .sr) = false ∧
    Instr.wf (.lscn u0 (.i .i32) false .add .rz) = false ∧ Instr.wf (.lscn u0 (.f .f16) true .max .rz) = false ∧
    Instr.wf (.movi pT (.v 4#7) 1#32 true) = false := by decide +kernel
theorem test_wf_m_refused :
    Instr.wf (.ld { mem0 with base := .v 4#7 }) = false ∧ Instr.wf (.ld { mem0 with last := true }) = false ∧ Instr.wf (.ld { mem0 with cop := .cg }) = false ∧
    Instr.wf (.ld { mem0 with data := .s 4#6 }) = false ∧ Instr.wf (.ld { mem0 with data := .v 5#7, size := .w64 }) = false ∧
    Instr.wf (.ld { mem0 with base := .v 5#7, space := .g }) = false ∧ Instr.wf (.ldX mem0) = false ∧ Instr.wf (.ldX { mem0 with base := .v 4#7, space := .g }) = false ∧
    Instr.wf (.st { mem0 with space := .c }) = false ∧ Instr.wf (.st { mem0 with data := .x 0#5 }) = false ∧ Instr.wf (.stX mem0) = false ∧
    Instr.wf (.ldb mem0) = false ∧ Instr.wf (.stb mem0) = false ∧ Instr.wf (.stb { mem0 with data := .s 4#6, space := .c }) = false ∧
    Instr.wf (.ldt { mem0 with space := .g }) = false ∧ Instr.wf (.stt { mem0 with space := .g }) = false ∧
    Instr.wf (.atomAdd { atom0 with space := .c }) = false ∧ Instr.wf (.atomMin { atom0 with base := .v 9#7 }) = false ∧
    Instr.wf (.atomMax { atom0 with data := .v 7#7, ty := .i64 }) = false ∧ Instr.wf (.atomAnd { atom0 with ty := .f32 }) = false ∧
    Instr.wf (.atomOr { atom0 with ty := .f32 }) = false ∧ Instr.wf (.atomXor { atom0 with ty := .f32 }) = false ∧ Instr.wf (.atomXchg { atom0 with space := .h }) = false ∧
    Instr.wf (.atomIncw atom0) = false ∧ Instr.wf (.cas { atom0 with ty := .f32 }) = false ∧ Instr.wf (.cas { atom0 with data := .v 7#7 }) = false ∧
    Instr.wf (.cas { atom0 with data := .x 1#5 }) = false ∧ Instr.wf (.cas { atom0 with data := .x 0#5 }) = true ∧ Instr.wf (.waita ⟨pT, .x 0#5, 4#6, 0#16, false, .g, .a, 0#3⟩) = true ∧
    Instr.wf (.recv ⟨pT, .v 4#7, 4#6, 0#16, false, .a⟩) = false ∧ Instr.wf (.waita ⟨pT, .s 2#6, 4#6, 0#16, false, .c, .a, 0#3⟩) = false ∧
    Instr.wf (.fence pT .core .relaxed .a) = false ∧ Instr.wf (.pref pT 0#8 4#6 0#16 .none) = false := by decide +kernel
theorem test_wf_xc_refused :
    Instr.wf (.cpy { x0 with ct := .t1 5#6 }) = false ∧ Instr.wf (.mxq { x0 with ct := .t2 1#6 1#6 }) = false ∧ Instr.wf (.coll { x0 with ct := .t3 1#6 2#6 5#6 }) = false ∧
    Instr.wf (.brv pT false 1#3 4#24 0#10) = false ∧ Instr.wf (.nest 4#6 8#6 6#3 1#5) = false ∧ Instr.wf (.clause 0#12 12#4 15#4) = false ∧
    Instr.wf (.clause 0#12 3#4 3#4) = false ∧ Instr.wf (.shape pT 7#3) = false ∧ Instr.wf (.gets pT 4#6 0x009#12) = false ∧
    Instr.wf (.sets pT 0x008#12 4#6) = false ∧ Instr.wf (.sets pT 0x031#12 4#6) = false := by decide +kernel
theorem test_wf_form_refused :
    Instr.wfBundle (.ld { mem0 with fsel := .a }) = false ∧ Instr.wfBundle (.ld { mem0 with space := .g }) = false ∧ Instr.wfBundle (.macroOp pT 0#6 0#46) = false ∧
    Instr.wfBundle (.fdiv b0 .f32 .rn .none) = false ∧ Instr.wfBeyrum (.fdiv b0 .f32 .rn .a) = false ∧ Instr.wfBeyrum (.clause 0#12 15#4 15#4) = false ∧
    Instr.wfBeyrum (.fadd (bin (.v 4#7) ⟨.fv 1#3, false⟩ (sv 6#7)) .f32 .rn false) = false ∧ Instr.wfBundle (.ld mem0) = true ∧ Instr.wfBeyrum (.ld mem0) = true := by
  decide +kernel

/-! ### Words written out from the encodings -/

/-- The bundle of R12, encoded under "A bundle encoded": slot values and whole words. -/
theorem test_decode_example_bundle :
    decodeBundle (0x0100408000000005 + 2 ^ 64 * 0x0022100100400048 + 2 ^ 128 * 0x04) =
      .ok ⟨5#5, .fmul (bin (.v 4#7) (sv 1#7) (sv 2#7)) .f32 .rn false, .ld mem0, .nop, .nop⟩ ∧
    decodeWord 0x0048010040800000 = some (.fmul (bin (.v 4#7) (sv 1#7) (sv 2#7)) .f32 .rn false) ∧ decodeWord 0x1040022100100400 = some (.ld mem0) := by decide +kernel
/-- The worked encodings of LOOP, ATOM, MXQ, CPY and DRAIN. -/
theorem test_decode_examples :
    decodeBundle (0x0803FFFFF6280210 * 2 ^ 192) = .ok ⟨0#5, .nop, .nop, .nop, .loop 10#6 (-3#24) true 1#5⟩ ∧
    decodeSlot .m 0x08001A220040060 = some (.atomAdd atom0) ∧
    decodeSlot .x 0x080240583080000 = some (.mxq x0) ∧ decodeSlot .x 0x040250282000000 = some (.cpy ⟨pT, 20#6, 2#6, .t1 1#6⟩) ∧
    decodeSlot .m 0x0C8003800000014 = some (.drainRel pT none .a) := by decide +kernel
/-- Vector operations: opcode, predicate, DST, SRCA, SRCB, SRCC, marks, TYPE, RND, SR and MOD at their places (Tables 3.2, 3.3, 3.7). -/
theorem test_decode_v :
    decodeSlot .v (0x010 * 2 ^ 50 + 1 * 2 ^ 49 + 3 * 2 ^ 46 + 4 * 2 ^ 38 + 2 * 2 ^ 30 + 6 * 2 ^ 22 + 1 * 2 ^ 7 + 3 * 2 ^ 5 + 8) =
      some (.fadd { b0 with p := ⟨true, 3#3⟩ } .f16 .ru true) ∧
    decodeSlot .v (0x013 * 2 ^ 50 + 4 * 2 ^ 38 + 2 * 2 ^ 30 + 6 * 2 ^ 22 + 8 * 2 ^ 14 + 1 * 2 ^ 4) = some (.fma t0 .f32 .sr false) ∧
    decodeSlot .v (0x010 * 2 ^ 50 + 4 * 2 ^ 38 + 0xC1 * 2 ^ 30 + 6 * 2 ^ 22 + 1 * 2 ^ 13) = some (.fadd { b0 with a := ⟨.fv 1#3, true⟩ } .f32 .rn false) ∧
    decodeSlot .v (0x018 * 2 ^ 50 + 3 * 2 ^ 38 + 2 * 2 ^ 30 + 6 * 2 ^ 22 + 2) = some (.fcmp ⟨pT, 3#3, sv 2#7, sv 6#7⟩ .f32 .lt) ∧
    decodeSlot .v (0x01B * 2 ^ 50 + 4 * 2 ^ 38 + 1 * 2 ^ 30 + 0x10 * 2 ^ 22 + 0x24 * 2 ^ 14 + 8) = some (.fcvt u0 (.ieee .f32) (.p3109 .signed 4#3) .rn true) ∧
    decodeSlot .v (0x020 * 2 ^ 50 + 4 * 2 ^ 38 + 1 * 2 ^ 30) = some (.frcp u0 .f32 .rn) ∧
    decodeSlot .v (0x028 * 2 ^ 50 + 4 * 2 ^ 38 + 2 * 2 ^ 30 + 6 * 2 ^ 22 + 4) = some (.fdiv b0 .f32 .rn .a) ∧
    decodeSlot .v (0x030 * 2 ^ 50 + 4 * 2 ^ 38 + 2 * 2 ^ 30 + 6 * 2 ^ 22 + 5 * 2 ^ 7 + 8) = some (.iadd b0 .i64 true) ∧
    decodeSlot .v (0x041 * 2 ^ 50 + 4 * 2 ^ 38 + 2 * 2 ^ 30 + 6 * 2 ^ 22 + 4 * 2 ^ 7) = some (.or b0 .n32) ∧
    decodeSlot .v (0x200 * 2 ^ 50 + 4 * 2 ^ 38 + 0xFFFFFFFF * 2 ^ 6) = some (.movi pT (.v 4#7) 0xFFFFFFFF#32 false) := by decide +kernel
/-- Memory, engine and control operations (Tables 3.4 to 3.6, 3.8, 3.12, 3.13, 5.1). -/
theorem test_decode_mxc :
    decodeSlot .m (0x012 * 2 ^ 50 + 8 * 2 ^ 38 + 0x84 * 2 ^ 30 + 0xFFFC * 2 ^ 14 + 2 * 2 ^ 9 + 1 * 2 ^ 6 + 1 * 2 ^ 4 + 1 * 2 ^ 1) =
      some (.st { mem0 with ofs := 0xFFFC#16, space := .g, fsel := .a, cop := .cg }) ∧
    decodeSlot .m (0x018 * 2 ^ 50 + 8 * 2 ^ 38 + 0x84 * 2 ^ 30 + 0x0304 * 2 ^ 14 + 2 * 2 ^ 9 + 1 * 2 ^ 4) = some (.ldset ⟨pT, .v 8#7, 4#6, 3#8, 4#8, .a, .addF32⟩) ∧
    decodeSlot .m (0x029 * 2 ^ 50 + 0x82 * 2 ^ 38 + 0x84 * 2 ^ 30 + 3 * 2 ^ 9 + 1 * 2 ^ 6 + 1 * 2 ^ 4 + 7 * 2 ^ 1) =
      some (.waita ⟨pT, .s 2#6, 4#6, 0#16, true, .g, .a, 7#3⟩) ∧
    decodeSlot .m (0x031 * 2 ^ 50 + 2 * 2 ^ 9 + 2 * 2 ^ 4 + 1 * 2 ^ 1) = some (.fence pT .die .acq .b) ∧
    decodeSlot .m (0x040 * 2 ^ 50 + 0x82 * 2 ^ 38 + 0x84 * 2 ^ 30 + 2 * 2 ^ 9 + 1 * 2 ^ 6 + 1 * 2 ^ 4) = some (.send ⟨pT, .s 2#6, 4#6, 0#16, false, .a⟩) ∧
    decodeSlot .x (0x021 * 2 ^ 50 + 0x9E * 2 ^ 38 + 6 * 2 ^ 32 + 7) = some (.mxrd ⟨pT, 30#6, 6#6, .t0⟩ 7#6) ∧
    decodeSlot .c (0x010 * 2 ^ 50 + 0xFFFFFF * 2 ^ 22) = some (.br pT (-1#24)) ∧ decodeSlot .c (0x061 * 2 ^ 50) = some (.exit pT) ∧
    decodeSlot .c (0x070 * 2 ^ 50 + 0x21 * 2 ^ 22) = some (.trap pT 0x21#8) ∧ decodeSlot .c (0x053 * 2 ^ 50 + 1 * 2 ^ 22 + 0x84 * 2 ^ 14) = some (.sets pT 1#12 4#6) ∧
    decodeWord (3 * 2 ^ 60 + 0x3C5 * 2 ^ 50 + 9) = some (.macroOp pT 5#6 9#46) := by decide +kernel
/-- The first offending place of a bundle is named: R72's consumed tag in X, a nonzero header, and an unused field. -/
theorem test_decode_bad :
    decodeBundle (2 ^ 136 * (0x010 * 2 ^ 50 + 3 * 2 ^ 46 + 0x94 * 2 ^ 38 + 4 * 2 ^ 32 + 1 * 2 ^ 31 + 4 * 2 ^ 25)) = .bad .x ∧
    decodeBundle (1 * 2 ^ 5) = .bad .header ∧ decodeBundle (2 ^ 16 * 1) = .bad .v := by decide +kernel

/-! ### Worked examples of values -/

/-- R38's example of Philox, and RAND's of R123. -/
theorem test_philox : draw 0#64 0#48 0 0 = 0x6627E8D5#32 ∧ draw 0#64 0#48 0 1 = 0xE169C58D#32 := by decide +kernel
/-- R27's example: 0.3 and 300 into .b8p4 and .b8p4x. -/
theorem test_encode_p3109 :
    (encFmt (.p3109 .signed 4#3) .rn false 0 (decF .f32 0x3E99999A)).1 = 0x32 ∧
    (encFmt (.p3109 .signed 4#3) .sr false 0x9999A000 (decF .f32 0x3E99999A)).1 = 0x31 ∧
    (encFmt (.p3109 .signed 4#3) .sr false 0x99999FFF (decF .f32 0x3E99999A)).1 = 0x32 ∧
    (encFmt (.p3109 .signed 4#3) .rn false 0 (XV.ofInt 300)).1 = 0x80 ∧ (encFmt (.p3109 .signed 4#3) .rn true 0 (XV.ofInt 300)).1 = 0x7F ∧
    (encFmt (.p3109 .extended 4#3) .rn false 0 (XV.ofInt 300)).1 = 0x7F := by decide +kernel

/-! ### A small machine: one wave of one grid on core 0 -/

def tlbAll : TlbEnt := { part := 0, vbase := 0, len := 2 ^ 30, pbase := 0, r := true, w := true, x := true }
def w1 : Wave := (placedGrid false).wave 2 0 0 0 0 []
def c1 : Core := { Core.reset with size := 64, grid := some 1, utlb := [tlbAll], waves := [(0, w1)] }
def k1 : Cluster := { Cluster.reset with grid := some 1, tlb := [tlbAll] }
/-- Tables at 0x1000 and 0x2000: a leaf of 1 GiB at home and one of another package. -/
def p1 : Part := { placedPart with ptroot := 0x1001#64, acc := 5, peers := [0, 9] }
def g1 : Grid := placedGrid false
def m1 : Mems := { Mems.reset with home := [(0x1000, 0x01#8), (0x1001, 0x20#8), (0x2000, 0x1F#8), (0x2008, 0x1F#8), (0x200E, 0x08#8)], frr := [], sstg := [] }
def i1 : Issue :=
  { core := 0, wave := 0, split := 0, bundle := ⟨0#5, .nop, .nop, .nop, .nop⟩, isn := 0, pre := w1, tags := 0#64, tagerr := 0#64, pen := 0,
    fa := 1, fb := 2, gather := 0#64, gatherOp := none, inMacro := false }
def mk (c : Core) (k : Cluster) (p : Part) (g : Grid) (i : Option Issue) : State :=
  { State.reset with cores := [(0, c)], clusters := [(0, k)], parts := [(0, p)], grids := [g], mem := m1, nextId := 50, inputs := [], issue := i }
def s1 : State := mk c1 k1 p1 g1 (some i1)
theorem test_exec1 : Executing s1 i1 := ⟨rfl, c1, w1, _, rfl, rfl, rfl⟩
/-- The same machine with another wave. -/
def iW (w : Wave) : Issue := { i1 with pre := w }
def sW (w : Wave) : State := mk { c1 with waves := [(0, w)] } k1 p1 g1 (some (iW w))
theorem test_execW (w : Wave) (sp : Split) (h : NMap.get? w.splits 0 = some sp) : Executing (sW w) (iW w) := ⟨rfl, _, w, sp, rfl, rfl, h⟩
/-- A scalar of the wave set. -/
def setS (w : Wave) (n : Nat) (x : W64) : Wave := { w with s := RMap.wr w.s n x }

/-! ### Witnesses: the V slot -/

def pr (i : Instr) : Prop := i.vinfo.isSome = true ∧ Executing s1 i1
theorem test_wit_FloatArithmetic : (floatArith (.fma t0 .f32 .sr true)).isSome = true ∧ pr (.fma t0 .f32 .sr true) := ⟨rfl, rfl, test_exec1⟩
theorem test_wit_FloatCompare : (floatPick (.fcmp ⟨pT, 7#3, sv 2#7, sv 6#7⟩ .bf16 .un)).isSome = true ∧ pr (.fcmp ⟨pT, 7#3, sv 2#7, sv 6#7⟩ .bf16 .un) :=
  ⟨rfl, rfl, test_exec1⟩
theorem test_wit_FloatConversion : (floatConvert (.fdot2 t0 true .rd true)).isSome = true ∧ pr (.fdot2 t0 true .rd true) := ⟨rfl, rfl, test_exec1⟩
/-- R102's points: 1 / -0, log2 1, sin of -2 and cos of 5/2; a general one. -/
theorem test_wit_SpecialFunctions_points : specialCase .rcp (.fin true 0 1) = some (.inf true, flDZ) ∧ specialCase .rsq (.fin true 3 7) = some (.nan false, flNV) ∧
    specialCase .tnh (.nan true) = some (.nan false, flNV) ∧ exactPoint .lg2 (.fin false 3 3) = some (.zero false) ∧ exactPoint .sin (.fin true 4 2) = some (.zero true) ∧
    exactPoint .cos (.fin false 5 2) = some (.zero false) ∧ specialCase .ex2 (.fin true 3 7) = none ∧ exactPoint .ex2 (.fin true 3 7) = none := by decide +kernel
/-- R103: 0 / 0. -/
theorem test_wit_Division_flags : (Instr.fdiv b0 .f32 .rn .a).vinfo.map (fun v => (v.isScalar, quotientFlags s1 i1 v .f32 .rn 63)) = some (false, flNV) := by decide +kernel
theorem test_wit_SpecialFunctions : (special (.ftnh u0 .f16 .sr)).isSome = true ∧ pr (.ftnh u0 .f16 .sr) := ⟨rfl, rfl, test_exec1⟩
theorem test_wit_IntegerArithmetic : (intArith (.imad t0 .n64 true)).isSome = true ∧ pr (.imad t0 .n64 true) := ⟨rfl, rfl, test_exec1⟩
theorem test_wit_FloatConversion_integers : (intFloat (.ftoi u0 (.ieee .f32) .i64 .ru)).isSome = true ∧ pr (.ftoi u0 (.ieee .f32) .i64 .ru) := ⟨rfl, rfl, test_exec1⟩
theorem test_wit_BitOperations : (bitOps (.bfi t0 true)).isSome = true ∧ pr (.bfi t0 true) := ⟨rfl, rfl, test_exec1⟩
theorem test_wit_MovesAndPredicates : (moves (.rand pNo (.s 9#6))).isSome = true ∧ pr (.rand pNo (.s 9#6)) := ⟨rfl, rfl, test_exec1⟩
theorem test_wit_LaneMoves : laneMove (.trns u0 true) = true ∧ Instr.wf (.trns (un (.v 4#7) (sv 2#7)) true) = true ∧ pr (.trns (un (.v 4#7) (sv 2#7)) true) :=
  ⟨rfl, by decide +kernel, rfl, test_exec1⟩
theorem test_wit_LaneReductions :
    laneReduction (.lscn u0 (.f .f32) true .max .rn) = true ∧ Instr.wf (.lscn u0 (.f .f32) true .max .rn) = true ∧ pr (.lscn u0 (.f .f32) true .max .rn) :=
  ⟨rfl, by decide +kernel, rfl, test_exec1⟩

/-! ### Witnesses: the M slot -/

theorem test_wit_Division : Executing s1 i1 ∧ i1.flagTrap .a 1 = none ∧ i1.flagTrap .none 1 = none := ⟨test_exec1, by decide +kernel, by decide +kernel⟩
theorem test_wit_FixedLoads : ∃ f, mform (.ld mem0) = some f ∧ fixedMem (.ld mem0) f = true ∧ s1.memTrap i1 f .none = none ∧ Executing s1 i1 :=
  ⟨_, rfl, by decide +kernel, by decide +kernel, test_exec1⟩
def ldg : Mem := { mem0 with space := .g, fsel := .a }
def ldx : Mem := { mem0 with base := .v 4#7, fsel := .a }
theorem test_wit_VariableLoads_global : ∃ f, mform (.ld ldg) = some f ∧ fixedMem (.ld ldg) f = false ∧ s1.memTrap i1 f .a = none ∧ s1.missing 0 i1.pre i1.sp f = 0#64 ∧
    Executing s1 i1 := ⟨_, rfl, by decide +kernel, by decide +kernel, by decide +kernel, test_exec1⟩
theorem test_wit_VariableLoads_scratch : ∃ f, mform (.ldX ldx) = some f ∧ fixedMem (.ldX ldx) f = false ∧ s1.memTrap i1 f .a = none ∧ s1.missing 0 i1.pre i1.sp f = 0#64 ∧
    Executing s1 i1 := ⟨_, rfl, by decide +kernel, by decide +kernel, by decide +kernel, test_exec1⟩
theorem test_wit_ScratchpadStores : ∃ f, mform (.st mem0) = some f ∧ mem0.space = .s ∧ s1.memTrap i1 f .none = none ∧ Executing s1 i1 :=
  ⟨_, rfl, rfl, by decide +kernel, test_exec1⟩
theorem test_wit_GlobalStores : ∃ f, mform (.st ldg) = some f ∧ ldg.space ≠ .s ∧ s1.memTrap i1 f .a = none ∧ s1.missing 0 i1.pre i1.sp f = 0#64 ∧ Executing s1 i1 :=
  ⟨_, rfl, by decide, by decide +kernel, by decide +kernel, test_exec1⟩
theorem test_wit_AtomicValues : (2 ^ 64 - 1 < 2 ^ (if ATy.wide .n64 then 64 else 32)) ∧ 0 < 2 ^ (if ATy.wide .f32 then 64 else 32) := by decide
def atS : Atom := { atom0 with space := .s, fsel := .a, ord := .acq }
theorem test_wit_Atomics_global : ∃ f, atomicOf (.atomAdd atom0) = some (atom0, .add) ∧ mform (.atomAdd atom0) = some f ∧ s1.memTrap i1 f .b = none ∧
    s1.missing 0 i1.pre i1.sp f = 0#64 ∧ Executing s1 i1 := ⟨_, rfl, rfl, by decide +kernel, by decide +kernel, test_exec1⟩
theorem test_wit_Atomics_scratch : ∃ f, atomicOf (.cas atS) = some (atS, .cas) ∧ mform (.cas atS) = some f ∧ s1.memTrap i1 f .a = none ∧
    s1.missing 0 i1.pre i1.sp f = 0#64 ∧ i1.gatherOp = none ∧ acquires atS = true ∧ Executing s1 i1 :=
  ⟨_, rfl, rfl, by decide +kernel, by decide +kernel, rfl, rfl, test_exec1⟩
def wt : Waita := ⟨pT, .s 2#6, 4#6, 0#16, true, .g, .a, 7#3⟩
theorem test_wit_WaitOnAddress : ∃ f, mform (.waita wt) = some f ∧ s1.memTrap i1 f .a = none ∧ s1.missing 0 i1.pre i1.sp f = 0#64 ∧ i1.gatherOp = none ∧ Executing s1 i1 :=
  ⟨_, rfl, by decide +kernel, by decide +kernel, rfl, test_exec1⟩
theorem test_wit_FencesAndPrefetch : ((plainOp s1 i1 (.fence pT .sys .ar .a)).isSome = true ∧ (plainOp s1 i1 (.bpref pT 63#6 4#6 0#16 .none)).isSome = true ∧
    (plainOp s1 i1 (.flush pNo 4#6 0#16 true .b)).isSome = true ∧ i1.flagTrap .a 2 = none ∧ i1.flagTrap .b 2 = none ∧ i1.act pNo = 0#64) ∧ Executing s1 i1 :=
  ⟨by decide +kernel, test_exec1⟩
theorem test_wit_Drains : s1.drainBad i1 pT none .a = none ∧ s1.drainBad i1 pNo (some 4#6) .none = none ∧ Executing s1 i1 :=
  ⟨by decide +kernel, by decide +kernel, test_exec1⟩
def gSet : Grid := { g1 with sets := [(3, [0])] }
def sSet : State := mk c1 k1 p1 gSet (some i1)
theorem test_wit_SetLoads : sSet.ldsetBad i1 ⟨pT, .v 8#7, 4#6, 3#8, 4#8, .a, .addF32⟩ = none ∧ i1.gatherOp = none ∧ Executing sSet i1 :=
  ⟨by decide +kernel, rfl, rfl, c1, w1, _, rfl, rfl, rfl⟩
theorem test_wit_SetLoads_own : i1.pre.lcore = 0 ∧ (sSet.issGrid i1).bind (fun g => NMap.get? g.sets 3) = some [0] ∧ i1.act pT ≠ 0#64 := by decide +kernel
/-- Peer 9, channel 0, one word; a scratchpad buffer. -/
def wMsg : Wave := setS w1 2 9#64
def sMsg : State := mk { c1 with waves := [(0, wMsg)] } k1 p1 g1 (some (iW wMsg))
theorem test_wit_Messages : sMsg.msgBad (iW wMsg) ⟨pT, .s 2#6, 4#6, 0#16, true, .a⟩ .rd = none ∧ sMsg.msgBad (iW wMsg) ⟨pT, .s 2#6, 4#6, 0#16, false, .a⟩ .wr = none ∧
    Executing sMsg (iW wMsg) := ⟨by decide +kernel, by decide +kernel, rfl, _, wMsg, _, rfl, rfl, rfl⟩
/-- One byte beyond the 64 KiB of the scratchpad, and its last word. -/
def wSp (x : W64) : Wave := setS w1 5 x
def ldsp : Instr := .ld { mem0 with ofs := 0#16, base := .s 5#6 }
theorem test_wit_AccessTraps_range : ∃ f, mform ldsp = some f ∧ ldsp.fsel.isSome = true ∧ AccessFault (sW (wSp 65536#64)) (iW (wSp 65536#64)) p1 f .sprange 0 ∧
    ((sW (wSp 65536#64)).waveAt (iW (wSp 65536#64))).trap = none ∧ (iW (wSp 65536#64)).flagTrap .none 2 = none ∧ (sW (wSp 65536#64)).partOf 0 = some p1 ∧
    Executing (sW (wSp 65536#64)) (iW (wSp 65536#64)) :=
  ⟨_, rfl, by decide +kernel, by unfold AccessFault FirstOf OutOfScratchpad; decide +kernel, rfl, by decide +kernel, by decide +kernel, test_execW _ _ rfl⟩
theorem test_wit_AccessTraps_last : ∃ f, mform ldsp = some f ∧ NoneOf (f.lanes (wSp 65532#64) (iW (wSp 65532#64)).sp) (OutOfScratchpad (sW (wSp 65532#64)) (iW (wSp 65532#64)) f) ∧
    NoneOf (f.lanes (wSp 65532#64) (iW (wSp 65532#64)).sp) (OutOfWindow (sW (wSp 65532#64)) (iW (wSp 65532#64)) p1 f) ∧
    NoneOf (f.lanes (wSp 65532#64) (iW (wSp 65532#64)).sp) (OffItsSize (sW (wSp 65532#64)) (iW (wSp 65532#64)) f) :=
  ⟨_, rfl, by unfold NoneOf OutOfScratchpad; decide +kernel, fun _ _ _ h => h.elim (fun h => absurd h.1 (by decide)) (fun h => absurd h.1 (by decide)),
    by unfold NoneOf OffItsSize; decide +kernel⟩
/-- The first byte beyond a cistern window of 64 KiB. -/
theorem test_wit_AccessTraps_window : ∃ f, mform (.ld { ldg with space := .h, ofs := 0#16, base := .s 5#6 }) = some f ∧ (p1.cisLen : Int) = 65536 ∧
    AccessFault (sW (wSp 65536#64)) (iW (wSp 65536#64)) p1 f .winrange 0 ∧ (iW (wSp 65536#64)).flagTrap .a 2 = none :=
  ⟨_, rfl, by decide +kernel, ⟨fun _ _ _ h => absurd h.1 (by decide), by decide, by decide +kernel, .inl ⟨rfl, by decide +kernel⟩, fun _ h => absurd h (Nat.not_lt_zero _)⟩,
    by decide +kernel⟩
theorem test_wit_AccessTraps_align : ∃ f, mform (.ld { ldg with ofs := 0x42#16 }) = some f ∧ AccessFault s1 i1 p1 f .misalign 0 ∧ i1.flagTrap .a 2 = none ∧
    (s1.waveAt i1).trap = none ∧ s1.partOf 0 = some p1 ∧ Executing s1 i1 :=
  ⟨_, rfl, ⟨fun _ _ _ h => absurd h.1 (by decide), fun _ _ _ h => h.elim (fun h => absurd h.1 (by decide)) (fun h => absurd h.1 (by decide)),
    by unfold FirstOf OffItsSize; decide +kernel⟩, by decide +kernel, rfl, by decide +kernel, test_exec1⟩
def sCold : State := mk { c1 with utlb := [] } k1 p1 g1 (some i1)
theorem test_wit_TranslationHold : ∃ f, mform (.ld ldg) = some f ∧ sCold.memTrap i1 f .a = none ∧ sCold.missing 0 i1.pre i1.sp f ≠ 0#64 ∧ Executing sCold i1 :=
  ⟨_, rfl, by decide +kernel, by decide +kernel, rfl, _, w1, _, rfl, rfl, rfl⟩
/-- The same beside a TWALL. -/
def iCold : Issue := { i1 with bundle := ⟨0#5, .nop, .ld ldg, .nop, .twall 6#6⟩ }
theorem test_wit_TranslationHold_wait : waitsTags iCold.bundle.c = true ∧ waitsTags i1.bundle.c = false ∧ Executing (mk { c1 with utlb := [] } k1 p1 g1 (some iCold)) iCold :=
  ⟨rfl, rfl, rfl, _, w1, _, rfl, rfl, rfl⟩
/-- The first lane stands in a page the micro-TLB holds, the others in the next. -/
def sHalf : State := mk { c1 with utlb := [{ tlbAll with len := 65536 }], waves := [(0, wSp 65532#64)] } k1 p1 g1 (some (iW (wSp 65532#64)))
def ldHalf : Mem := { ldg with ofs := 0#16, base := .s 5#6 }
theorem test_wit_TranslationHold_part : ∃ f, mform (.ld ldHalf) = some f ∧ sHalf.memTrap (iW (wSp 65532#64)) f .a = none ∧
    sHalf.missing 0 (wSp 65532#64) (iW (wSp 65532#64)).sp f = 0xFFFFFFFFFFFFFFFE#64 ∧ accessKind sHalf (iW (wSp 65532#64)) (.ld ldHalf) f = some (.load (.v 8 none) 4 false .cd) ∧
    (sHalf.accesses (iW (wSp 65532#64)) f 1#64 (accessData sHalf (iW (wSp 65532#64)) (.ld ldHalf) f)).length = 1 ∧ sCold.accesses i1 f 0#64 (accessData sCold i1 (.ld ldg) f) = [] :=
  ⟨_, rfl, by decide +kernel⟩

/-! ### Witnesses: the X slot -/

/-- The wave with a descriptor from s16 on. -/
def wD (l : List W64) : Wave := (l.zipIdx 16).foldl (fun w e => setS w e.2 e.1) w1
/-- An MMA of one row, one column and K = 32 in .bf16, both operands in the scratchpad. -/
def mma : Wave := wD [0x2000000001#64, 0#64, 0x10120#64, 0#64, 0x10120#64]
theorem test_wit_CopyCommands : xTrap s1 i1 (.cpy x0) = none ∧ i1.act x0.p ≠ 0#64 ∧ Executing s1 i1 := ⟨by decide +kernel, by decide +kernel, test_exec1⟩
/-- CPYR of one word at 1 GiB, which another package holds, to the scratchpad. -/
def wRw : List W64 := [0x40000000#64, 0#64, 0x800000001#64, 1#64]
def wR : Wave := wD wRw
theorem test_wit_CopyCommands_remote : xTrap (sW wR) (iW wR) (.cpyr x0) = none ∧ (iW wR).act x0.p ≠ 0#64 ∧ Executing (sW wR) (iW wR) :=
  ⟨by decide +kernel, by decide +kernel, test_execW _ _ rfl⟩
/-- Queue 3 is bound to the wave: 64 words in and out. -/
def wQi : Wave := wD [0#64, 3#64, 0x800000060#64, 64#64, 0#64, 0#64, 4#64]
def wQo : Wave := wD [3#64, 0#64, 0x800000006#64, 64#64, 0#64, 0#64, 0#64, 0#64, 0#64, 4#64]
def sQ (w : Wave) : State := mk { c1 with waves := [(0, w)], queues := [(3, { bound := some 0, head := 7, ents := [] })] } k1 p1 g1 (some (iW w))
theorem test_wit_CopyCommands_queues : xTrap (sQ wQi) (iW wQi) (.cpyq x0) = none ∧ xTrap (sQ wQo) (iW wQo) (.cpyo x0) = none ∧ Executing (sQ wQi) (iW wQi) ∧
    Executing (sQ wQo) (iW wQo) := ⟨by decide +kernel, by decide +kernel, ⟨rfl, _, wQi, _, rfl, rfl, rfl⟩, rfl, _, wQo, _, rfl, rfl, rfl⟩
/-- COLL of 1 word for 2 packages. -/
def wC : Wave := wD [0#64, 0#64, 1#64, 0#64, 2#64]
theorem test_wit_CopyCommands_coll : xTrap (sW wC) (iW wC) (.coll x0) = none ∧ (iW wC).act x0.p ≠ 0#64 ∧ Executing (sW wC) (iW wC) :=
  ⟨by decide +kernel, by decide +kernel, test_execW _ _ rfl⟩
theorem test_wit_MatrixTasks : (sW mma).mxqBad (iW mma) x0 = none ∧ (iW mma).act x0.p ≠ 0#64 ∧ Executing (sW mma) (iW mma) :=
  ⟨by decide +kernel, by decide +kernel, test_execW _ _ rfl⟩
theorem test_wit_SidePortOperations : sideOf (.mxrd x0 63#6) = some (.rd, 64) ∧ (xTrap s1 i1 (.mxrd x0 63#6) = none ∧ xTrap s1 i1 (.mxwr x0 0#6) = none ∧
    xTrap s1 i1 (.mxz x0) = none ∧ xTrap s1 i1 (.mxcrd x0) = none ∧ xTrap s1 i1 (.mxcwr x0) = none ∧ i1.act x0.p ≠ 0#64) ∧ Executing s1 i1 :=
  ⟨rfl, by decide +kernel, test_exec1⟩
theorem test_wit_EmptyEngineOperations : xOf (.coll { x0 with p := pNo }) = some { x0 with p := pNo } ∧ i1.act pNo = 0#64 ∧ s1.isDet 0 = false ∧ Executing s1 i1 :=
  ⟨rfl, by decide +kernel, by decide +kernel, test_exec1⟩

theorem test_wit_EmptyEngineOperations_det : xOf (.mxz { x0 with p := pNo, ct := .t0 }) = some { x0 with p := pNo, ct := .t0 } ∧
    (mk c1 { k1 with det := true } p1 { g1 with det := true } (some i1)).isDet 0 = true := ⟨rfl, by decide +kernel⟩
/-! ### Witnesses: the C slot -/

theorem test_wit_Branches : branchOf s1 i1 (.br pT (-1#24)) = some (pT, True, (i1.sp.pc : Int) + (-1#24).toInt) ∧ i1.act pT ≠ 0#64 ∧ i1.act pNo = 0#64 ∧ Executing s1 i1 :=
  ⟨rfl, by decide +kernel, by decide +kernel, test_exec1⟩
/-- p1 holds in lanes 0 to 3. -/
def wV : Wave := { w1 with p := [(1, 0xF#64)] }
/-- Four splits, the first with an empty stack. -/
def wV4 : Wave := { wV with splits := [(0, Split.start 0 100 0xFF#64 0), (1, Split.start 1 9 0xF00#64 1), (2, Split.start 2 9 0xF000#64 2), (3, Split.start 3 9 0xF0000#64 3)] }
theorem test_wit_VectorBranch_none : takenLanes i1 pT false 1#3 = 0#64 ∧ ctlTrap s1 i1 (.brv pT false 1#3 5#24 8#10) = none ∧ Executing s1 i1 :=
  ⟨by decide +kernel, by decide +kernel, test_exec1⟩
theorem test_wit_VectorBranch_all : takenLanes i1 pT true 1#3 ≠ 0#64 ∧ i1.sp.mask &&& ~~~ (takenLanes i1 pT true 1#3) = 0#64 ∧
    ctlTrap s1 i1 (.brv pT true 1#3 5#24 8#10) = none ∧ Executing s1 i1 := ⟨by decide +kernel, by decide +kernel, by decide +kernel, test_exec1⟩
theorem test_wit_VectorBranch_split : takenLanes (iW wV) pT false 1#3 = 0xF#64 ∧ (iW wV).sp.mask &&& ~~~ (0xF#64) ≠ 0#64 ∧ (iW wV).pre.splits.length < 4 ∧
    NMap.get? ((sW wV).waveAt (iW wV)).splits ((sW wV).waveAt (iW wV)).freeSplit = none ∧ ctlTrap (sW wV) (iW wV) (.brv pT false 1#3 5#24 8#10) = none ∧ Executing (sW wV) (iW wV) :=
  ⟨by decide +kernel, by decide +kernel, by decide +kernel, by decide +kernel, by decide +kernel, test_execW _ _ rfl⟩
theorem test_wit_VectorBranch_stack : takenLanes (iW wV4) pT false 1#3 = 0xF#64 ∧ (iW wV4).sp.mask &&& ~~~ (0xF#64) ≠ 0#64 ∧ 4 ≤ (iW wV4).pre.splits.length ∧
    ctlTrap (sW wV4) (iW wV4) (.brv pT false 1#3 5#24 8#10) = none ∧ Executing (sW wV4) (iW wV4) :=
  ⟨by decide +kernel, by decide +kernel, by decide +kernel, by decide +kernel, test_execW _ _ rfl⟩
theorem test_wit_Loops : (loopCount 1 false).2 = some true ∧ (loopCount (2 ^ 32) true).2 = some false ∧ (loopCount (2 ^ 32) false).2 = none ∧ (loopCount 0 true).2 = none ∧
    Executing s1 i1 := ⟨by decide, by decide, by decide, by decide, test_exec1⟩
/-- Bounds 3 and 4, and an empty nest. -/
def wN : Wave := setS (setS w1 20 3#64) 21 4#64
theorem test_wit_Nests : nestOf (sW wN) (iW wN) 20#6 1#3 = ([3, 4], [0, 1], 0, 12) ∧ (nestOf s1 i1 20#6 1#3).2.2 = (0, 0) ∧
    ctlTrap (sW wN) (iW wN) (.nest 20#6 62#6 1#3 4#5) = none ∧ ctlTrap s1 i1 (.nest 20#6 62#6 1#3 4#5) = none ∧ (62#6).toNat + (1#3).toNat < 64 ∧
    (∀ k, k < 64 → Unwritten (sW wN) (iW wN) k) ∧ Executing (sW wN) (iW wN) ∧ Executing s1 i1 :=
  ⟨by decide +kernel, by decide +kernel, by decide +kernel, by decide +kernel, by decide, by unfold Unwritten; decide +kernel, test_execW _ _ rfl, test_exec1⟩
def gNest : Grid := { g1 with nest := some ([3, 4], [1, 0]) }
def wNg : Wave := setS w1 20 (1#64 <<< 63)
theorem test_wit_Nests_launch : let s := mk { c1 with waves := [(0, wNg)] } k1 p1 gNest (some (iW wNg))
    ctlTrap s (iW wNg) (.nest 20#6 8#6 1#3 4#5) = none ∧ (nestOf s (iW wNg) 20#6 1#3).1 = [3, 4] ∧ Executing s (iW wNg) :=
  ⟨by decide +kernel, by decide +kernel, rfl, _, wNg, _, rfl, rfl, rfl⟩
theorem test_wit_ClausesAndShape : idleOp (.wflg 5#12) = true ∧ i1.act pT ≠ 0#64 ∧ s1.isDet 0 = false ∧ Executing s1 i1 :=
  ⟨rfl, by decide +kernel, by decide +kernel, test_exec1⟩
def gDet : Grid := { g1 with det := true }
def sDet : State := mk c1 { k1 with det := true } p1 gDet (some i1)
theorem test_execDet : Executing sDet i1 := ⟨rfl, c1, w1, _, rfl, rfl, rfl⟩
theorem test_wit_FencesAndPrefetch_det : plainOp sDet i1 (.fence pNo .sys .ar .a) = some (.a, .idleFence .ar) ∧ i1.flagTrap .a 2 = none := ⟨by decide +kernel, by decide +kernel⟩
theorem test_wit_ClausesAndShape_det : sDet.isDet 0 = true ∧ Executing sDet i1 := ⟨by decide +kernel, test_execDet⟩
/-- Tags 2 and 5 are set and s6 selects tags 2, 3 and 5. -/
def wTag : Wave := setS w1 6 0x2C#64
def iTag : Issue := { iW wTag with tags := 0x24#64 }
def sTag : State := mk { c1 with waves := [(0, wTag)], tags := 0x24#64 } k1 p1 g1 (some iTag)
theorem test_wit_TagOperations : tagWait (.tffr 7#6 6#6) = some (6#6, true, some 7#6) ∧ (ctlTrap sTag iTag (.tffr 7#6 6#6) = none ∧ ctlTrap sTag iTag (.twall 6#6) = none ∧
    (iTag.tags &&& readS (sTag.core 0) iTag.pre 6).getLsbD 2 = true ∧ (∀ j, j < 2 → (iTag.tags &&& readS (sTag.core 0) iTag.pre 6).getLsbD j = false) ∧
    iTag.act pT ≠ 0#64 ∧ (sTag.core 0).setNow.getLsbD 5 = false) ∧ Executing sTag iTag :=
  ⟨rfl, by decide +kernel, rfl, _, wTag, _, rfl, rfl, rfl⟩
theorem test_wit_BarrierArrivals : barrierOf (.gbar 3#2) = some (.gbar 3) ∧ ctlTrap s1 i1 (.gbar 3#2) = none ∧ ctlTrap sSet i1 (.sbar 3#8) = none ∧ s1.grid? i1.pre.grid = some g1 ∧
    g1.det = false ∧ Executing s1 i1 ∧ Executing sSet i1 :=
  ⟨rfl, by decide +kernel, by decide +kernel, by decide +kernel, by decide +kernel, test_exec1, rfl, c1, w1, _, rfl, rfl, rfl⟩
theorem test_wit_BarrierArrivals_det : ctlTrap sDet i1 (.gbar 0#2) = none ∧ ctlTrap sDet i1 (.bar 15#4) = none ∧ sDet.grid? i1.pre.grid = some gDet ∧ gDet.det = true ∧
    (sDet.waveAt i1).grid = gDet.id ∧ barId (.gbar 0) (sDet.waveAt i1) = barId (.gbar 0) i1.pre ∧ Executing sDet i1 :=
  ⟨by decide +kernel, by decide +kernel, by decide +kernel, rfl, by decide +kernel, by decide +kernel, test_execDet⟩
theorem test_wit_BarrierArrivals_trap : (sDet.waveAt i1).trap = none := rfl
def wX (st : List StackEnt) : Wave := { w1 with splits := [(0, { Split.start 0 100 0xFF#64 0 with stack := st })] }
theorem test_wit_Exits_partial : (iW wV).act ⟨false, 1#3⟩ = 0xF#64 ∧ ((sW wV).splitAt (iW wV)).mask &&& ~~~ ((iW wV).act ⟨false, 1#3⟩) ≠ 0#64 ∧ Executing (sW wV) (iW wV) :=
  ⟨by decide +kernel, by decide +kernel, test_execW _ _ rfl⟩
theorem test_wit_Exits_last : ((sW (wX [])).splitAt (iW (wX []))).mask &&& ~~~ ((iW (wX [])).act pT) = 0#64 ∧ ((sW (wX [])).splitAt (iW (wX []))).stack = [] ∧
    (∀ k, k ≠ 0 → NMap.get? ((sW (wX [])).waveAt (iW (wX []))).splits k = none) ∧ Executing (sW (wX [])) (iW (wX [])) := by
  refine ⟨by decide +kernel, rfl, fun k h => ?_, test_execW _ _ rfl⟩
  show NMap.get? [(0, _)] k = none
  simp [NMap.get?, h]
theorem test_wit_Exits_uncounted : noFarCount s1 i1 := fun g b h hb => by
  obtain rfl : g1 = g := Option.some.inj h
  cases hb
/-- The last split of a wave ends while another wave of its block waits at GBAR 0. -/
def sCount : State := mk { c1 with waves := [(0, w1), (1, { w1 with splits := [(0, { Split.start 0 100 0xFF#64 0 with bar := some ⟨.gbar 0, 0, false, some 3⟩ })] })] }
  { k1 with det := true } p1 { gDet with bars := [⟨⟨.gbar 0, 0⟩, 0⟩] } (some i1)
theorem test_wit_Exits_counted : ∃ g b, sCount.grid? (sCount.waveAt i1).grid = some g ∧ g.det = true ∧ b ∈ g.bars ∧ b.id.key.far = true ∧ g.joins b.id (sCount.waveAt i1) = true ∧
    (sCount.waveAt i1).trap = none ∧ (∀ e ∈ (sCount.waveAt i1).splits, e.1 ≠ i1.split → e.2.waits b.id.key b.phase = true) ∧ Executing sCount i1 :=
  ⟨{ gDet with bars := [⟨⟨.gbar 0, 0⟩, 0⟩] }, ⟨⟨.gbar 0, 0⟩, 0⟩, rfl, rfl, .head _, rfl, by decide +kernel, rfl, by decide +kernel, ⟨rfl, _, w1, _, rfl, rfl, rfl⟩⟩
theorem test_wit_Exits_taken : let w := wX [⟨7, 0xF00#64, 9, false⟩]
    ((sW w).splitAt (iW w)).mask &&& ~~~ ((iW w).act pT) = 0#64 ∧ ((sW w).splitAt (iW w)).stack = ⟨7, 0xF00#64, 9, false⟩ :: [] ∧ Executing (sW w) (iW w) :=
  ⟨by decide +kernel, rfl, test_execW _ _ rfl⟩
theorem test_wit_Exits_rejoin : let w := wX [⟨7, 0xF00#64, 9, true⟩]
    ((sW w).splitAt (iW w)).mask &&& ~~~ ((iW w).act pT) = 0#64 ∧ ((sW w).splitAt (iW w)).stack = [⟨7, 0xF00#64, 9, true⟩] ∧ Executing (sW w) (iW w) :=
  ⟨by decide +kernel, rfl, test_execW _ _ rfl⟩
theorem test_wit_SystemRegisters : (ctlTrap s1 i1 (.gets pT 9#6 0x8#12) = none ∧ ctlTrap s1 i1 (.sets pT 0#12 9#6) = none ∧ ctlTrap s1 i1 (.sets pT 0x13#12 9#6) = none ∧
    i1.act pT ≠ 0#64 ∧ i1.act pNo = 0#64 ∧ s1.isDet 0 = false ∧ sDet.isDet 0 = true) ∧ Executing s1 i1 :=
  ⟨by decide +kernel, test_exec1⟩
def wPriv : Wave := { w1 with priv := true }
theorem test_wit_SystemRegisters_command : ctlTrap (sW wPriv) (iW wPriv) (.gets pT 9#6 0x103#12) = none ∧ ctlTrap (sW wPriv) (iW wPriv) (.sets pT 0x103#12 9#6) = none ∧
    Executing (sW wPriv) (iW wPriv) := ⟨by decide +kernel, by decide +kernel, test_execW _ _ rfl⟩
theorem test_wit_SystemRegisters_partition : s1.partOf i1.core = some p1 ∧ (commandWords s1 p1).length = 18 := ⟨by decide +kernel, rfl⟩
/-- Records at 1 (misaligned), 0x4000 (zeros: refused) and 0x5000 (accepted). -/
def wL (a : W64) : Wave := { setS w1 6 a with priv := true }
def goodRecord : Memory := Memory.store (Memory.store (Memory.store (Memory.store m1.home 0x5000 8 (2 ^ 48 + 2 ^ 40 * 16 + 2 ^ 32 * 16 + 2 ^ 22 * 16 + 2 ^ 17)) 0x5008 8 0x0000000100000001) 0x5010 8 0x10001) 0x5018 8 0x10000
def pL : Part := { p1 with codes := [⟨0x10000, 0x1000, false⟩] }
def sL (a : W64) : State := { sW (wL a) with mem := { m1 with home := goodRecord }, parts := [(0, pL)], clusters := [(0, k1), (1, Cluster.reset)] }
theorem test_wit_LaunchAndNode_refused : ctlTrap (sL 1#64) (iW (wL 1#64)) (.launch 6#6) = none ∧ ((sL 1#64).partOf 0).isSome = true ∧
    (readS ((sL 1#64).core 0) (wL 1#64) 6).toNat % 8 ≠ 0 ∧ Executing (sL 1#64) (iW (wL 1#64)) :=
  ⟨by decide +kernel, by decide +kernel, by decide +kernel, rfl, _, wL 1#64, _, rfl, rfl, rfl⟩
def launchCheck (a : W64) : Option Nat :=
  (((sL a).tableBytes pL a.toNat 128).map (fun b => (sL a).checkLaunch pL false
    (Grid.ofRecord 50 0 1 ((List.range 16).map (fun k => BitVec.ofNat 64 (imgNat b (8 * k) 8)))))).map (fun r => match r with | .error e => e | .ok _ => 0)
theorem test_wit_LaunchAndNode_record : (launchCheck 0x4000#64).any (fun e => e != 0) = true ∧ launchCheck 0x5000#64 = some 0 ∧
    Executing (sL 0x5000#64) (iW (wL 0x5000#64)) := ⟨by decide +kernel, by decide +kernel, rfl, _, wL 0x5000#64, _, rfl, rfl, rfl⟩
theorem test_wit_LaunchAndNode_part : (sL 0x5000#64).partOf 0 = some pL ∧ NMap.get? (sL 0x5000#64).parts pL.num = some pL := ⟨by decide +kernel, by decide +kernel⟩
/-- The stream of a partition's command core. -/
def iCmd : Issue := { i1 with core := 768 }
def pRun : Part := { p1 with ctxs := [⟨0, 0#64, 0#64, 0, none, false, false⟩], run := some 0, slice := 1000#64 }
def sCmd : State := { s1 with cores := [(768, c1)], clusters := [(96, k1)], parts := [(0, pRun)], issue := some iCmd }
theorem test_wit_LaunchAndNode_node : ctlTrap sCmd iCmd (.node 0xFFFFFF#24) = none ∧ sCmd.partOf 768 = some pRun ∧ NMap.get? sCmd.parts pRun.num = some pRun ∧
    (pRun.tend = none ∨ ∃ e, pRun.tend = some e ∧ sCmd.timeNs < e) ∧ Executing sCmd iCmd := by
  refine ⟨by decide +kernel, by decide +kernel, by decide +kernel, ?_, rfl, c1, w1, _, rfl, rfl, rfl⟩
  rcases h : pRun.tend with _ | e
  · exact .inl rfl
  · exact .inr ⟨e, rfl, by have h2 : pRun.tend.all (fun e => decide (sCmd.timeNs < e)) = true := by decide +kernel
                           rw [h] at h2; simpa using h2⟩
/-- Two contexts: the slice of 1,000 µs ends in this nanosecond. -/
def pEnd : Part := { pRun with ctxs := [⟨0, 0#64, 0#64, 0, none, false, false⟩, ⟨1, 0#64, 0#64, 0, none, false, false⟩] }
def sEnd : State := { sCmd with parts := [(0, pEnd)], pack := { sCmd.pack with ns := 1000000 } }
theorem test_wit_LaunchAndNode_save : (ctlTrap sEnd iCmd (.node 7#24) = none ∧ sEnd.partOf 768 = some pEnd ∧ NMap.get? sEnd.parts pEnd.num = some pEnd ∧ pEnd.tend = some 1000000 ∧
    sEnd.timeNs = 1000000 ∧ 768 ∈ pEnd.everyCore) ∧ Executing sEnd iCmd :=
  ⟨by decide +kernel, rfl, c1, w1, _, rfl, rfl, rfl⟩
/-- A record of 16 words: no waves, and more than 288 KiB of scratchpad. -/
theorem test_wit_LaunchAndNode_rows : launchRow s1 p1 false (List.replicate 16 0#64) 0x01 ∧ launchRow s1 p1 false ((0x48400000#64) :: List.replicate 15 0#64) 0x02 ∧
    ¬ launchRow s1 p1 false (List.replicate 16 0#64) 0x02 ∧ (List.replicate 16 (0#64 : W64)).length = 16 := by
  refine ⟨?_, ?_, ?_, rfl⟩
  · exact .inr (.inr (.inr (.inr (.inr (.inl (by decide +kernel))))))
  · exact .inl (by decide +kernel)
  · exact fun h => h.elim (by decide +kernel) (by decide +kernel)
theorem test_wit_ControlTraps : (ctlTrap s1 i1 (.bkpt pT) = some .bkpt ∧ ctlTrap s1 i1 .eretReplay = some .illop ∧ ctlTrap s1 i1 (.gets pT 1#6 0x40#12) = some .priv ∧
    ctlTrap s1 i1 (.launch 4#6) = some .priv ∧ ctlTrap s1 i1 (.node 1#24) = some .priv ∧ ctlTrap s1 i1 (.twany 9#6) = some .illop ∧ ctlTrap s1 i1 (.sbar 3#8) = some .illop ∧
    ctlTrap (sW (setS w1 9 7#64)) (iW (setS w1 9 7#64)) (.sets pT 1#12 9#6) = some .illop) ∧ (s1.waveAt i1).trap = none ∧ i1.act pNo = 0#64 ∧ Executing s1 i1 :=
  ⟨by decide +kernel, rfl, by decide +kernel,
    test_exec1⟩
def ctxOf (cause : Cause) (resume : W64) (started : Bool) : TrapCtx :=
  { cause := cause, arg := 0, slot := 4, split := 0, deferred := false, inMacro := false, pc := 100, mpc := none, fpc := 100, addr := 0, info := 0, lanes := 0#64,
    ctx := 0x10000, time := 0, resume := resume, retired := false, started := started, startRem := 0, order := 0,
    splits := [(0, Split.start 0 100 0xFF#64 0)], drain := [], rngidx := 5#48 }
def wT (resume : W64) (started : Bool) : Wave := { w1 with trap := some (ctxOf .bkpt resume started) }
theorem test_wit_TrapReturn : actionOf .eretEndWave = some 2 ∧ (iW (wT 2#64 true)).pre.inTrap = true ∧ (iW (wT 2#64 true)).pre.action ≠ 3 ∧
    ((sW (wT 2#64 true)).waveAt (iW (wT 2#64 true))).trap = some (ctxOf .bkpt 2#64 true) ∧
    (NMap.get? ((sW (wT 2#64 true)).reloadSplits 0 ((wT 2#64 true).slotBase ((sW (wT 2#64 true)).isDet 0)) (ctxOf .bkpt 2#64 true)) 0).isSome = true ∧ (ctxOf .bkpt 2#64 true).nat = none ∧
    Executing (sW (wT 2#64 true)) (iW (wT 2#64 true)) :=
  ⟨rfl, by decide +kernel, by decide +kernel, rfl, by decide +kernel, rfl, test_execW _ _ rfl⟩
/-- A save holds the DET core of a wave in trap mode; its record, from TCAUSE to the last number, and EXEC and SPLITS there. -/
def sTh : State := mk { c1 with hold := true, waves := [(0, wT 2#64 true)] } { k1 with det := true } p1 gDet (some (iW (wT 2#64 true)))
theorem test_wit_TrapReturn_held : heldAfterTrap sTh (iW (wT 2#64 true)) = true ∧ heldAfterTrap (sW (wT 2#64 true)) (iW (wT 2#64 true)) = false ∧
    NMap.sorted (sTh.waveAt (iW (wT 2#64 true))).splits = true ∧ Executing sTh (iW (wT 2#64 true)) := ⟨by decide +kernel, by decide +kernel, by decide +kernel, rfl, _, wT 2#64 true, _, rfl, rfl, rfl⟩
theorem test_wit_SystemRegisters_trap : (iW (wT 2#64 true)).pre.trap = some (ctxOf .bkpt 2#64 true) ∧ recordWord (ctxOf .bkpt 2#64 true) false 0x40 = 0x00040011#64 ∧
    recordWord (ctxOf .bkpt 2#64 true) false 0x5F = 0#64 := ⟨rfl, by decide +kernel, by decide +kernel⟩
def sMac : State := { s1 with pack := { s1.pack with cstore := [(5, [1, 2])] } }
def isMac (w : Nat) : Bool := match decodeWord w with | some (.macroOp _ _ _) => true | _ => false
theorem test_wit_Macros : NMap.get? sMac.pack.cstore (5#6).toNat = some [1, 2] ∧ ([1, 2].all (fun e => !(isMac (expand e 9)))) = true ∧
    sMac.expansion 65 [] 5 9 ≠ [] ∧ sMac.expansion 65 [] 6 9 = [] ∧ Executing sMac i1 :=
  ⟨rfl, by decide +kernel, by decide +kernel, by decide +kernel, rfl, c1, w1, _, rfl, rfl, rfl⟩

/-! ### Witnesses: events of the front end -/

def bundleReady (s : State) (core w n : Nat) (carried : Bool) : Bool :=
  let s' := s.boundary core
  let m := s'.mergedAt core w n
  let s2 := m.1.updCore core (fun c => c.served (w, m.2))
  let s1 := s2.exitWin core w m.2
  s'.pick core == some (w, n) && (s'.wave core w).carriedNow == carried && m.1.readyAt core (w, m.2) &&
  (NMap.get? (s1.core core).waves w).any (fun wv => (NMap.get? wv.splits m.2).isSome) &&
  (match s2.fetch core w m.2 with
    | .ok b => let i := s1.mkIssue core w m.2 b
      (s1.issueTrap i).isNone && !(s1.issueHeld i) && i.sp.mpc.isNone && !(isMacro i.bundle.c) && i.sp.nest.isNone
    | _ => false)
theorem test_wit_BundleIssue : validCore 0 = true ∧ bundleReady (State.reset.withFetchWord 256 0) 0 0 0 false = true ∧
    bundleReady (State.reset.withFetchWord 64 0) 0 0 0 true = true := ⟨by decide +kernel, by decide +kernel, by decide +kernel⟩
theorem test_wit_FrontEndEvents_handler : let s := sW (wT 0#64 false)
    s.wave? 0 0 = some (wT 0#64 false) ∧ (wT 0#64 false).trap = some (ctxOf .bkpt 0#64 false) ∧ (ctxOf .bkpt 0#64 false).started = false ∧
    (ctxOf .bkpt 0#64 false).startRem = 0 ∧ (∀ e ∈ (s.core 0).waves, e.2.trap.isSome = true → e = (0, wT 0#64 false)) ∧ s.partOf 0 = some p1 :=
  ⟨rfl, rfl, rfl, rfl, by decide +kernel, by decide +kernel⟩
def fres (d : Dest) : FRes :=
  { id := 9, isn := 0, mem := false, rem := 0, arrived := false, dest := d, mask := 3#64, live := 3#64, wide := false, scalar := false, vals := [(0, 1#64)], flags := 1#6 }
def wRes (d : Dest) : Wave := { w1 with splits := [(0, { Split.start 0 100 0xFF#64 0 with win := [fres d] })] }
theorem test_wit_FrontEndEvents_result (d : Dest) : (sW (wRes d)).wave? 0 0 = some (wRes d) ∧
    (wRes d).splits.find? (fun e => e.2.win.any (dueResult 9)) = some (0, { Split.start 0 100 0xFF#64 0 with win := [fres d] }) ∧
    NMap.get? (wRes d).splits 0 = some { Split.start 0 100 0xFF#64 0 with win := [fres d] } ∧ [fres d].find? (dueResult 9) = some (fres d) := ⟨rfl, rfl, rfl, rfl⟩
/-- A result that has left its window with no write landed after it; a scratchpad load with an error in lane 0. -/
def wOut : Wave := { w1 with splits := [(0, { Split.start 0 100 0xFF#64 0 with win := [{ fres (.v 3 none) with out := true }] })] }
theorem test_wit_FrontEndEvents_out : wOut.splits.find? (fun e => e.2.win.any (dueResult 9)) = some (0, { Split.start 0 100 0xFF#64 0 with win := [{ fres (.v 3 none) with out := true }] }) ∧
    FreeDest (sW wOut) 0 0 (fres (.v 3 none)).dest (fres (.v 3 none)).id := ⟨rfl, rfl⟩
def wErr : Wave := { w1 with splits := [(0, { Split.start 0 100 0xFF#64 0 with win := [{ fres (.v 3 none) with mem := true }] })] }
theorem test_wit_FrontEndEvents_error : (sW wErr).wave? 0 0 = some wErr ∧ (wErr.split 0).win = [{ fres (.v 3 none) with mem := true }] ∧
    (fres (.v 3 none)).mask &&& 1#64 ≠ 0#64 ∧ (fres (.v 3 none)).scalar = false ∧ wErr.drain = [] := ⟨rfl, rfl, by decide, rfl, rfl⟩
def wDr : Wave := { w1 with drain := [fres (.v 3 none)] }
theorem test_wit_FrontEndEvents_drain : (sW wDr).wave? 0 0 = some wDr ∧ wDr.splits.find? (fun e => e.2.win.any (dueResult 9)) = none ∧
    wDr.drain.find? (dueResult 9) = some (fres (.v 3 none)) ∧ FreeDest (sW wDr) 0 0 (fres (.v 3 none)).dest (fres (.v 3 none)).id := ⟨rfl, rfl, rfl, rfl⟩
def holdF (va : Nat) : XHold := ⟨true, 0#64, none, [⟨va, 0⟩]⟩
def wF (va : Nat) : Wave := { w1 with splits := [(0, { Split.start 0 100 0xFF#64 0 with hold := some (holdF va) })] }
theorem test_wit_FrontEndEvents_walk : (sW (wF 0x10000)).wave? 0 0 = some (wF 0x10000) ∧ ((sW (wF 0x10000)).partOf 0 = some p1 ∧
    (holdF 0x10000).walks.find? (fun w => w.rem == 0) = some ⟨0x10000, 0⟩ ∧ tlbXlat k1.tlb p1 0x10000 .fetch = some tlbAll ∧ tlbXlat [] p1 0x10000 .fetch = none ∧
    tlbXlat k1.tlb p1 (2 ^ 48) .fetch = none ∧ translate m1 p1 0x10000 .fetch = .ok 0x10000 tlbAll ∧
    translate m1 p1 (2 ^ 48) .fetch = .fault 3) ∧ (sW (wF (2 ^ 48))).wave? 0 0 = some (wF (2 ^ 48)) ∧ (wF (2 ^ 48)).trap = none ∧ NMap.sorted (wF (2 ^ 48)).splits = true :=
  ⟨rfl, by decide +kernel, rfl, rfl, by decide +kernel⟩
def pT1 : Part := { p1 with tcache := 0x0001000000000000#64 }
def sT1 : State := mk c1 k1 pT1 g1 none
/-- A Beyrum EXIT at byte 0x3000. -/
def sTx : State := { sT1 with mem := { m1 with home := Memory.store m1.home 0x3000 8 (3 * 2 ^ 60 + 0x061 * 2 ^ 50) } }
theorem test_wit_FrontEndEvents_translate : partAt sTx 0 pT1 ∧ sTx.blockLen pT1 4096 0x600 = 1 ∧ 32 * (pT1.transl.map (·.len)).sum + 32 * 1 ≤ bitsNat pT1.tcache.toNat 48 16 * 2 ^ 20 ∧
    pT1.transl.any (fun x => x.bpc == 0x600) = false := ⟨rfl, by decide +kernel, by decide +kernel, by decide +kernel⟩

/-! ### Witnesses: completions -/

def vop (k : VKind) (r : List Req) : VarOp :=
  { id := 40, wave := 0, uid := 2, grid := 1, split := 0, pc := 100, handler := false, flag := some 1, rem := 0, padded := false, kind := k, reqs := r }
def req (lane : Nat) (l : Loc) : Req := { lane := lane, loc := l, va := 0x3000, rem := 0, data := 7, data2 := 0, done := false, err := false, val := 0 }
def sO (o : VarOp) : State := mk { c1 with ops := [o] } k1 p1 g1 none
theorem test_inFlight (k : VKind) (r : List Req) : InFlight (sO (vop k r)) 0 (vop k r) := ⟨rfl, w1, rfl, rfl⟩
def oLd : VarOp := vop (.load (.v 3 none) 4 false .cg) [req 63 (.pa 0x3000)]
theorem test_wit_AccessCompletions_load : InFlight (sO oLd) 0 oLd ∧ reqDue ((sO oLd).core 0).ops oLd (req 63 (.pa 0x3000)) = true ∧ isRemote 0x3000 = false ∧
    (sO oLd).mem.load 0x3000 4 = some 0 ∧ FreeDest (sO oLd) 0 0 (.v 3 none) 40 := ⟨test_inFlight _ _, by decide +kernel, by decide +kernel, by decide +kernel, rfl⟩
def oSt : VarOp := vop (.store 4 .cd) [req 0 (.pa 0x3000)]
theorem test_wit_AccessCompletions_store : InFlight (sO oSt) 0 oSt ∧ reqDue ((sO oSt).core 0).ops oSt (req 0 (.pa 0x3000)) = true ∧ isRemote 0x3000 = false ∧
    ((sO oSt).mem.store 0x3000 4 7).isSome = true := ⟨test_inFlight _ _, by decide +kernel, by decide +kernel, by decide +kernel⟩
def oAt : VarOp := vop (.atom (.v 3 none) .add .i32 .relaxed) [req 5 (.pa 0x3000)]
theorem test_wit_AccessCompletions_atomic : InFlight (sO oAt) 0 oAt ∧ reqDue ((sO oAt).core 0).ops oAt (req 5 (.pa 0x3000)) = true ∧ isRemote 0x3000 = false ∧
    FreeDest (sO oAt) 0 0 (.v 3 none) 40 ∧ (sO oAt).mem.load 0x3000 4 = some 0 ∧ ((sO oAt).mem.store 0x3000 4 (atomNew .add .i32 0 7 0)).isSome = true :=
  ⟨test_inFlight _ _, by decide +kernel, by decide +kernel, rfl, by decide +kernel, by decide +kernel⟩
theorem test_wit_AccessCompletions_division : let o := vop (.fdiv (.v 3 none) [(1, 5#64)] 3#64 0#6) []
    InFlight (sO o) 0 o ∧ o.reqs = [] ∧ o.rem = 0 ∧ FreeDest (sO o) 0 0 (.v 3 none) 40 := ⟨test_inFlight _ _, rfl, rfl, rfl⟩
theorem test_wit_AccessCompletions_error : InFlight (sO oLd) 0 oLd ∧ (req 63 (.pa 0x3000)).done = false ∧ oLd.handler = false ∧ ((sO oLd).wave 0 0).trap = none ∧
    ∃ sp, NMap.get? ((sO oLd).wave 0 0).splits oLd.split = some sp := ⟨test_inFlight _ _, rfl, rfl, rfl, _, rfl⟩
/-- Lanes 3 and 9, the second at the last word of the sector. -/
def two : List Req := [req 3 (.pa 0x3000), req 9 (.pa 0x30FC)]
def oTwo (k : VKind) : VarOp := vop k two
theorem test_allDue (k : VKind) (h : reqDue [oTwo k] (oTwo k) (req 3 (.pa 0x3000)) = true) (h' : reqDue [oTwo k] (oTwo k) (req 9 (.pa 0x30FC)) = true) :
    AllDue (sO (oTwo k)) 0 (oTwo k) := by
  refine ⟨rfl, (by decide : [3, 9].Nodup), fun r hr => ?_⟩
  rcases List.mem_cons.mp hr with rfl | hr
  · exact ⟨h, rfl, by decide, 0x3000, rfl, by decide +kernel, by decide +kernel⟩
  · obtain rfl := List.mem_singleton.mp hr
    exact ⟨h', rfl, by decide, 0x30FC, rfl, by decide +kernel, by decide +kernel⟩
def ldTwo : VKind := .load (.v 3 none) 4 false .cn
def stTwo : VKind := .store 4 .cg
def atTwo : VKind := .atom (.v 3 none) .add .i32 .relaxed
theorem test_wit_AccessCompletions_lanes : AllDue (sO (oTwo ldTwo)) 0 (oTwo ldTwo) ∧ AllDue (sO (oTwo stTwo)) 0 (oTwo stTwo) ∧ AllDue (sO (oTwo atTwo)) 0 (oTwo atTwo) :=
  ⟨test_allDue _ (by decide +kernel) (by decide +kernel), test_allDue _ (by decide +kernel) (by decide +kernel), test_allDue _ (by decide +kernel) (by decide +kernel)⟩
theorem test_wit_AccessCompletions_several : (∀ k, InFlight (sO (oTwo k)) 0 (oTwo k)) ∧ (sO (oTwo ldTwo)).mem.l2 = [] ∧ (sO (oTwo ldTwo)).mem.load 0x3000 4 = some 0 ∧
    (sO (oTwo ldTwo)).mem.load 0x30FC 4 = some 0 ∧ ((sO (oTwo stTwo)).core 0).watch = [] ∧ (storeAll 4 .cg two (sO (oTwo stTwo)).mem).isSome = true ∧
    (atomAll .add .i32 two (sO (oTwo atTwo)).mem).isSome = true ∧ FreeDest (sO (oTwo ldTwo)) 0 0 (.v 3 none) 40 :=
  ⟨fun _ => test_inFlight _ _, rfl, by decide +kernel, by decide +kernel, rfl, by decide +kernel, by decide +kernel, rfl⟩
theorem test_wit_AccessCompletions_done : let o := vop (.load (.v 3 none) 4 false .cd) [{ req 3 (.sp 0) with done := true }, { req 63 (.sp 4) with done := true }]
    InFlight (sO o) 0 o ∧ o.rem = 0 ∧ (o.reqs.map (·.lane)).Nodup ∧ (∀ r ∈ o.reqs, r.done = true ∧ r.err = false ∧ r.lane < 64) := ⟨test_inFlight _ _, rfl, by decide, by decide⟩
/-- A .cd load that finds the sector's L1 copy, and one that finds none. -/
def oCd : VarOp := vop (.load (.v 3 none) 4 false .cd) [req 63 (.pa 0x3000)]
theorem test_wit_AccessCompletions_l1 : let s := mk { c1 with ops := [oCd], l1 := [(0x30, ⟨false, List.replicate 256 9#8, false⟩)] } k1 p1 g1 none
    InFlight s 0 oCd ∧ reqDue (s.core 0).ops oCd (req 63 (.pa 0x3000)) = true ∧ ((s.core 0).l1Hit (0x3000 / 256) false).isSome = true ∧ 0x3000 < cisternBase ∧
    InFlight (sO oCd) 0 oCd ∧ ((sO oCd).core 0).l1Hit (0x3000 / 256) false = none ∧ isRemote 0x3000 = false ∧
    (∀ j, j < 256 → (sO oCd).mem.rd (0x3000 / 256 * 256 + j) = (List.replicate 256 0#8)[j]?) ∧ oCd.noFill = false :=
  ⟨⟨rfl, w1, rfl, rfl⟩, by decide +kernel, by decide +kernel, by decide, test_inFlight _ _, by decide +kernel, by decide +kernel, by decide +kernel, rfl⟩
def oWa (cmp : Nat) (dl : Option Nat) : VarOp := vop (.waita (.s 3) cmp 4 dl 100) [req 0 (.pa 0x3000)]
theorem test_wit_OperationCompletions : (plainEnd (sO (vop (.fence .sys .acq) [])) 0 (vop (.fence .sys .acq) []) = some (.fenceSatisfied 0 40) ∧
    plainEnd (sO (vop .empty [])) 0 (vop .empty []) = some (.fenceSatisfied 0 40) ∧
    plainEnd (sO (vop .acqPart [])) 0 (vop .acqPart []) = some (.fenceSatisfied 0 40) ∧
    plainEnd (sO (vop (.idleFence .ar) [])) 0 (vop (.idleFence .ar) []) = some (.fenceSatisfied 0 40) ∧
    plainEnd (sO (vop (.flush false [3]) [])) 0 (vop (.flush false [3]) []) = some (.flushCompletion 0 40) ∧
    plainEnd (sO (vop (.bpref 63 [3]) [])) 0 (vop (.bpref 63 [3]) []) = some (.bprefCompletion 0 40) ∧
    plainEnd (sO (vop .pref [])) 0 (vop .pref []) = some (.prefCompletion 0 40) ∧
    plainEnd (sO (vop (.drain false [9]) [])) 0 (vop (.drain false [9]) []) = some (.drainCompletion 0 40) ∧ isCarrier (3 * 256) = false) ∧
    ∀ k, InFlight (sO (vop k [])) 0 (vop k []) :=
  ⟨by decide +kernel,
    fun _ => test_inFlight _ _⟩
def oMk : VarOp := { vop (.drain true [9]) [] with padded := true }
theorem test_wit_OperationCompletions_padded : plainEnd (sO oMk) 0 oMk = some (.drainCompletion 0 40) ∧ InFlight (sO oMk) 0 oMk ∧
    plainEnd (sO (oWa 1 none)) 0 (oWa 1 none) = none := ⟨by decide +kernel, ⟨rfl, w1, rfl, rfl⟩, by decide +kernel⟩
theorem test_wit_OperationCompletions_failed : let o := vop (.flush false []) [{ req 63 (.pa 0x3000) with err := true }]
    InFlight (sO o) 0 o ∧ o.handler = false ∧ ((sO o).wave 0 0).trap = none ∧ ∃ sp, NMap.get? ((sO o).wave 0 0).splits o.split = some sp := ⟨test_inFlight _ _, rfl, rfl, _, rfl⟩
theorem test_wit_OperationCompletions_marks : let o := vop (.drain true [9]) [{ Req.mark with done := false }]
    InFlight (sO o) 0 o ∧ o.padded = false ∧ o.reqs = [{ Req.mark with done := false }] ∧ (sO o).writesTo 0 o [9] false = false :=
  ⟨test_inFlight _ _, rfl, rfl, by decide +kernel⟩
theorem test_wit_OperationCompletions_waita : InFlight (sO (oWa 1 none)) 0 (oWa 1 none) ∧ (sO (oWa 1 none)).waitRead 0 (.pa 0x3000) 4 = some 0 ∧
    FreeDest (sO (oWa 1 none)) 0 0 (.s 3) 40 ∧ (sO (oWa 0 none)).waitRead 0 (.pa 0x3000) 4 = some 0 ∧ ((sO (oWa 0 none)).core 0).watch.length < 16 ∧ waitHeld ((sO (oWa 0 none)).core 0).ops (oWa 0 none) = false ∧ (req 0 (.pa 0x3000)).data2 = 0 :=
  ⟨test_inFlight _ _, by decide +kernel, rfl, by decide +kernel, by decide +kernel, by decide +kernel, rfl⟩
theorem test_wit_OperationCompletions_ldset : let o := vop (.ldset (.v 3 none) 3 0 0 .addF32 3#64 0#64) [{ req 0 (.sp 0) with done := true }]
    InFlight (sO o) 0 o ∧ o.rem = 0 ∧ o.fail = 0 ∧ o.reqs.all (·.done) = true ∧ FreeDest (sO o) 0 0 (.v 3 none) 40 := ⟨test_inFlight _ _, rfl, rfl, rfl, rfl⟩
def oSd (q : Nat) : VarOp := vop (.send (.s 3) q 0 1 true 0x100 0) [{ Req.mark with done := false }]
theorem test_wit_MessageCompletions_send : InFlight (sO (oSd 9)) 0 (oSd 9) ∧ (sO (oSd 9)).partOf 0 = some p1 ∧ FreeDest (sO (oSd 9)) 0 0 (.s 3) 40 ∧
    (sO (oSd 9)).reach p1 9 = false ∧ marksHold ((sO (oSd 9)).core 0).ops (oSd 9).uid 40 9 = false ∧ sendsHold ((sO (oSd 9)).core 0).ops (oSd 9).uid 40 9 0 = false :=
  ⟨test_inFlight _ _, by decide +kernel, rfl, by decide +kernel, by decide +kernel, by decide +kernel⟩
/-- All stations are up. -/
def sUp (o : VarOp) : State := { sO o with pack := { Pack.reset with stations := (List.range 4).map (fun i => (i, { Station.reset with up := true })) } }
def readsBuf (s : State) : Bool :=
  match State.bufRead 0 p1 true 0 [{ Req.mark with done := false }] 1 s 0x100 with
  | (.ok _, u) => decide (u.core 0 = s.core 0) && decide (u.pack = s.pack) && decide (u.grids = s.grids) | _ => false
theorem test_wit_MessageCompletions_sent : (sUp (oSd 9)).reach p1 9 = true ∧ 9 ≠ p1.acc ∧ (oSd 9).fail = 0 ∧ readsBuf (sUp (oSd 9)) = true ∧
    readsBuf (sO (oSd 5)) = true ∧ 5 = p1.acc ∧ (sO (oSd 5)).rqRoom 5 1 = true := ⟨by decide +kernel, by decide +kernel, rfl, by decide +kernel, by decide +kernel, rfl, by decide +kernel⟩
/-- The queue of package 5 holds 1 MiB of words; the SEND stands at its padded ic. -/
def oSdP : VarOp := { oSd 5 with padded := true }
def sFull : State := { sO oSdP with pack := { Pack.reset with peers := [(5, { Peer.zero with rq := [(0, 0, List.replicate 16384 1#32)] })] } }
theorem test_wit_MessageCompletions_full : InFlight sFull 0 oSdP ∧ sFull.rqRoom 5 1 = false ∧ oSdP.padded = true ∧ sFull.partOf 0 = some p1 :=
  ⟨⟨rfl, w1, rfl, rfl⟩, by decide +kernel, rfl, by decide +kernel⟩
def oRv (got : Option (Nat × List W32)) : VarOp := vop (.recv (.s 3) 9 0 1 false 0x3000 0 got) [req 0 (.pa 0x3000)]
def writesBuf (s : State) (ws : List W32) : Bool :=
  match State.bufWrite 0 p1 false 0 [req 0 (.pa 0x3000)] (ws.take 1) s 0x3000 with
  | (none, u) => decide (u.cores.map (fun e => (e.1, e.2.waves)) = s.cores.map (fun e => (e.1, e.2.waves))) | _ => false
theorem test_wit_MessageCompletions_recv : InFlight (sO (oRv (some (4, [7#32])))) 0 (oRv (some (4, [7#32]))) ∧ (sO (oRv (some (4, [7#32])))).partOf 0 = some p1 ∧
    writesBuf (sO (oRv (some (4, [7#32])))) [7#32] = true ∧ NMap.get? (sO (oRv (some (4, [7#32])))).cores 0 ≠ none ∧
    InFlight (sO (oRv none)) 0 (oRv none) ∧ FreeDest (sO (oRv none)) 0 0 (.s 3) 40 ∧ (sO (oRv none)).msgReady 9 0 40 = false ∧ (sO (oRv none)).canReach 0 9 = false :=
  ⟨test_inFlight _ _, by decide +kernel, by decide +kernel, by decide +kernel, test_inFlight _ _, rfl, by decide +kernel, by decide +kernel⟩
/-- Behind a message of channel 1, one of two words on channel 0. -/
def rq2 : List (Nat × Nat × List W32) := [(0, 1, [1#32]), (6, 0, [7#32, 8#32])]
def sRq : State := { sO (oRv none) with pack := { Pack.reset with peers := [(9, { Peer.zero with rq := rq2 })] } }
theorem test_wit_MessageCompletions_taken : InFlight sRq 0 (oRv none) ∧ sRq.recvsBefore 9 0 40 = 0 ∧ (sRq.peer 9).rq = [(0, 1, [1#32])] ++ (6, 0, [7#32, 8#32]) :: [] ∧
    (∀ x ∈ [((0 : Nat), (1 : Nat), [1#32])], x.2.1 ≠ 0) ∧ writesBuf ((sRq.updPeer 9 (fun x => { x with rq := [(0, 1, [1#32])] ++ [] })).takeIn 9) [7#32, 8#32] = true :=
  ⟨⟨rfl, w1, rfl, rfl⟩, by decide +kernel, rfl, by decide, by decide +kernel⟩
/-- Under DET, with the stations up: a RECV at its padded ic; and one that has held its core for 10 ms. -/
def sRd (o : VarOp) (now : Nat) : State := { mk { c1 with ops := [o] } { k1 with det := true } p1 gDet none with pack := (sUp o).pack, now := now }
def oHeld : VarOp := vop (.recv (.s 3) 9 0 1 false 0x3000 0 none) [{ req 0 (.pa 0x3000) with again := true, since := 5 }]
theorem test_wit_MessageCompletions_hold : InFlight (sRd (oRv none) 5) 0 (oRv none) ∧ (sRd (oRv none) 5).msgReady 9 0 40 = false ∧ (sRd (oRv none) 5).canReach 0 9 = true ∧
    (sRd (oRv none) 5).isDet 0 = true ∧ (∀ r ∈ (oRv none).reqs, r.again = false) ∧
    InFlight (sRd oHeld (5 + recvTime)) 0 oHeld ∧ (∃ r ∈ oHeld.reqs, r.again = true ∧ r.since + recvTime ≤ 5 + recvTime) ∧
    (∀ r ∈ oHeld.reqs, r.again = false ∨ 4 + recvTime < r.since + recvTime) ∧ FreeDest (sRd oHeld (5 + recvTime)) 0 0 (.s 3) 40 :=
  ⟨⟨rfl, w1, rfl, rfl⟩, by decide +kernel, by decide +kernel, by decide +kernel, by decide, ⟨rfl, w1, rfl, rfl⟩, ⟨_, .head _, rfl, by decide⟩,
    fun r h => .inr (by obtain rfl := List.mem_singleton.mp h; decide), rfl⟩
/-- The time base is 10 ms after the hold began, and one nanosecond before that. -/
def sRt (ns : Nat) : State := { sRd oHeld 5 with pack := { (sUp oHeld).pack with ns := ns } }
theorem test_wit_MessageCompletions_bound : oHeld.reqs.find? (·.again) = some { req 0 (.pa 0x3000) with again := true, since := 5 } ∧ 5 + 10000000 ≤ (sRt 10000005).timeNs ∧
    (sRt 10000004).timeNs < 5 + 10000000 ∧ InFlight (sRt 10000005) 0 oHeld ∧ InFlight (sRt 10000004) 0 oHeld ∧ FreeDest (sRt 10000005) 0 0 (.s 3) 40 ∧
    (∀ r ∈ (oRv none).reqs, r.again = false) :=
  ⟨rfl, by decide +kernel, by decide +kernel, ⟨rfl, w1, rfl, rfl⟩, ⟨rfl, w1, rfl, rfl⟩, rfl, by decide⟩
theorem test_wit_MessageCompletions_empty : let o := vop (.send (.s 3) 9 0 0 true 0x100 0) []
    InFlight (sO o) 0 o ∧ o.rem = 0 ∧ marksHold ((sO o).core 0).ops o.uid o.id 9 = false := ⟨test_inFlight _ _, rfl, by decide +kernel⟩
/-- 1 ms has passed since the request left; and it has not. -/
def oFar : VarOp := vop (.load (.v 3 none) 4 false .cg) [req 63 (.pa remoteBit)]
theorem test_wit_MessageCompletions_timeout : (sO (oSd 9)).ownId 0 9 = false ∧ (∃ r ∈ (oSd 9).reqs, r.since + responseTime ≤ responseTime) ∧
    (∀ r ∈ (oSd 9).reqs, responseTime - 1 < r.since + responseTime) ∧ (sO (oRv none)).canReach 0 9 = false ∧
    InFlight { sO (oSd 9) with now := responseTime } 0 (oSd 9) ∧ InFlight { sO oFar with now := responseTime } 0 oFar ∧ (req 63 (.pa remoteBit)).remote = true ∧
    oFar.padded = false ∧ reqHeld [oFar] oFar (req 63 (.pa remoteBit)) = false ∧ ((sO oFar).wave 0 0).trap = none ∧ ∃ sp, NMap.get? ((sO oFar).wave 0 0).splits oFar.split = some sp :=
  ⟨by decide +kernel, ⟨_, .head _, by decide⟩, fun r h => by obtain rfl := List.mem_singleton.mp h; decide, by decide +kernel, ⟨rfl, w1, rfl, rfl⟩, ⟨rfl, w1, rfl, rfl⟩,
    by decide +kernel, rfl, by decide +kernel, rfl, _, rfl⟩
/-! ### Witnesses: the fabric and the engines -/

def sN : State := mk c1 k1 p1 g1 none
def sP : State := { sUp oLd with cores := [(0, c1)], pack := { (sUp oLd).pack with peers := [(9, { Peer.zero with marks := [(1, 0), (2, 4)] })] } }
/-- Requests of package 9 for 0x3000 here: a read of two accesses, a write, a compare-swap of 4 bytes, a write of the next epoch and one that is misaligned. -/
def peerAddr : Nat := 9 * 2 ^ 41 + 0x3000
def prRead : PeerReq := ⟨9, 0, peerAddr, 0, [⟨0, 8, []⟩, ⟨16, 4, []⟩]⟩
def prWrite (ep : Nat) : PeerReq := ⟨9, 1, peerAddr, ep, [⟨0, 2, [1#8, 2#8]⟩]⟩
def prCas : PeerReq := ⟨9, 8, peerAddr, 0, [⟨4, 4, natLE 8 5⟩]⟩
theorem test_wit_PeerEvents_requests : sP.linkUp = true ∧ peerReqOk prRead = true ∧ (prRead.parts.map (sP.peerRead peerAddr)).all (·.isSome) = true ∧
    peerReqOk (prWrite 0) = true ∧ peerReqOk prCas = true ∧ peerReqOk (prWrite 1) = true ∧ (sP.peer 9).acked < 1 ∧
    peerReqOk ⟨9, 1, peerAddr, 0, [⟨1, 4, []⟩]⟩ = false ∧ (upliAtom 8 4).isSome = true ∧ (sP.mem.load 0x3004 4).isSome = true ∧
    ((sP.updPeer 9 (fun p => { p with fence := p.fence + 1 })).homeBytes 0x3000 (natLE 2 0x0201)).isSome = true ∧
    ((sP.updPeer 9 (fun p => { p with fence := p.fence + 1 })).homeBytes 0x3004 (natLE 4 0)).isSome = true :=
  ⟨rfl, by decide +kernel, by decide +kernel, by decide +kernel, by decide +kernel, by decide +kernel, by decide, by decide +kernel, rfl, by decide +kernel, by decide +kernel, by decide +kernel⟩
theorem test_wit_PeerEvents_message : (sP.peer 9).held = [] ∧ sP.rqRoom 9 4 = true ∧ sP.rqRoom 9 (2 ^ 20) = false := ⟨rfl, by decide +kernel, by decide +kernel⟩
def hW : Held := ⟨9, 1, 1, peerAddr, [⟨0, 2, [1#8, 2#8]⟩], none⟩
def sHw : State := sP.updPeer 9 (fun p => { p with held := [hW] })
theorem test_wit_PeerEvents_held : (sHw.peer 9).marks = (1, 0) :: [(2, 4)] ∧ (sHw.peer 9).held = [hW] ∧ hW.src = 9 ∧ hW.msg = none ∧ hW.epoch ≤ 1 := ⟨rfl, rfl, rfl, rfl, by decide⟩
theorem test_wit_PeerEvents : localOf (9 * 2 ^ 41 + 0x3000) = some 0x3000 ∧ (sP.mem.load 0x3000 256).isSome = true ∧ (sP.peer 9).acked = 0 ∧
    ((sP.updPeer 9 (fun p => { p with fence := p.fence + 1 })).homeBytes 0x30F0 [1#8, 2#8]).isSome = true ∧ (sP.peer 9).marks = (1, 0) :: [(2, 4)] ∧ 0 ≤ (sP.peer 9).fence ∧ (sP.peer 9).held = [] ∧
    NMap.get? sP.pack.stations 3 = some { Station.reset with up := true } ∧ sP.cores.all (fun e => e.2.ops.isEmpty) = true ∧ sP.clusters.all (fun e => e.2.copies.isEmpty) = true :=
  ⟨by decide +kernel, by decide +kernel, rfl, by decide +kernel, rfl, Nat.zero_le _, rfl, rfl, rfl, rfl⟩
/-- The last station of the package goes down over a SEND or a load of another package; a station without the rails. -/
def sLast (o : VarOp) : State := { sO o with pack := { Pack.reset with stations := [(2, { Station.reset with up := true })] } }
theorem test_wit_PeerEvents_last : NMap.sorted (sLast (oSd 9)).cores = true ∧ ((sLast (oSd 9)).core 0).ops = [oSd 9] ∧
    (∀ e ∈ (sLast (oSd 9)).cores, e.1 ≠ 0 → e.2.ops = []) ∧ (∀ e ∈ (sLast (oSd 9)).clusters, e.2.copies = []) ∧ (sLast (oSd 9)).ownId 0 9 = false ∧
    (sLast { oSd 9 with reqs := [] }).upStations = [2] ∧ InFlight (sLast { oSd 9 with reqs := [] }) 0 { oSd 9 with reqs := [] } ∧
    (sLast oFar).upStations = [2] ∧ InFlight (sLast oFar) 0 oFar ∧ (req 63 (.pa remoteBit)).remote = true ∧ reqHeld ((sLast oFar).core 0).ops oFar (req 63 (.pa remoteBit)) = false :=
  ⟨by decide +kernel, rfl, by decide +kernel, by decide +kernel, by decide +kernel, by decide +kernel, ⟨rfl, w1, rfl, rfl⟩, by decide +kernel,
    ⟨rfl, w1, rfl, rfl⟩, by decide +kernel, by decide +kernel⟩
theorem test_wit_PeerEvents_degraded : NMap.get? sP.pack.stations 3 = some { Station.reset with up := true } ∧ sP.pack.power ≠ .off := ⟨rfl, by decide⟩

def task (arr : Option Nat) (left : Nat) (pad : Option Nat) (done : Bool) : Task :=
  { id := 30, core := 0, wave := 0, uid := 2, grid := 1, words := [0x2000000001#64, 0#64, 0x10120#64, 0#64, 0x10120#64, 0#64, 0#64, 0#64], ptag := 63, ctags := [], regs := [],
    rbase := 0#5, rowlog := 3#3, arr := arr, left := left, unit := 0, pad := pad, done := done, flags := 0#6, tile0 := [], carry0 := [] }
def kT (t : Task) : Cluster := { k1 with tasks := [t], bind := [(0, 2)] }
def sK (k : Cluster) : State := mk c1 k p1 g1 none
theorem test_wit_ArrayEvents_start : (sK (kT (task none 0 none false))).startable 0 2 = some (task none 0 none false) ∧
    ((sK (kT (task none 0 none false))).cluster 0).tasks.find? (fun t => t.id == 30) = some (task none 0 none false) ∧ NMap.get? (sK (kT (task none 0 none false))).clusters 0 ≠ none :=
  ⟨by decide +kernel, rfl, by decide +kernel⟩
def tRun : Task := task (some 2) 0 none false
theorem test_wit_ArrayEvents_commit : ((sK (kT tRun)).cluster 0).running 2 = some tRun ∧ tRun.left = 0 ∧ tRun.pad = none ∧
    (match (sK (kT tRun)).taskUnit 0 tRun with
      | (none, y, u) => decide (y.id = tRun.id) && decide ((u.cluster 0).tasks = ((sK (kT tRun)).cluster 0).tasks) && (NMap.get? u.clusters 0).isSome
      | _ => false) = true := ⟨by decide +kernel, rfl, rfl, by decide +kernel⟩
/-- One tile each of an MMA, an AFFSCAN and an AFFMAP, of one element from the scratchpad. -/
def scanWords : List W64 := [0x100000002#64, 0#64, 0x10100#64, 0#64, 0x10100#64, 0#64, 0#64, 0#64]
def mapWords : List W64 := [0x3#64, 0#64, 0x10100#64, 0#64, 0#64, 0x100#64, 0x10100#64, 0#64]
def kept (s u : State) : Bool := decide ((u.cluster 0).arrays = (s.cluster 0).arrays) && (NMap.get? u.clusters 0).isSome
def reads2 (x : Task) (p0 p1 : List (Nat × Nat)) (tile : Nat) (k : State → Bool) : Bool :=
  let s := sK (kT x)
  match State.opdList x 0 (opdOf x.words 1 x.cols) tile p0 s with
  | (.ok _, s1) => (match State.opdList x 1 (opdOf x.words 3 x.cols) tile p1 s1 with | (.ok _, u) => k u | _ => false)
  | _ => false
theorem test_wit_ArrayEvents_units : let x := tRun
    let y := { tRun with words := scanWords }
    let z := { tRun with words := mapWords }
    tKind x.words = 1 ∧ reads2 x [(0, 0)] [(0, 0)] 0 (kept (sK (kT x))) = true ∧ (opdOf x.words 1 x.cols).blk = false ∧ (opdOf x.words 3 x.cols).blk = false ∧
    tKind y.words = 2 ∧ (opdOf y.words 1 y.cols).src = 1 ∧ reads2 y [(0, 0)] [(0, 0)] 0 (kept (sK (kT y))) = true ∧
    tKind z.words = 3 ∧ (opdOf z.words 1 z.cols).src = 1 ∧ FFmt.of (opdOf z.words 5 z.cols).fmt = some (.ieee .f32) ∧
    (match State.opdList z 0 (opdOf z.words 1 z.cols) 0 [(0, 0)] (sK (kT z)) with
      | (.ok _, s1) => (match State.opdWrite z (opdOf z.words 5 z.cols) [(0, 0, 0, 5)] s1 with | (none, u) => kept (sK (kT z)) u | _ => false)
      | _ => false) = true ∧
    (∀ e ∈ usedOpds x.words x.cols, e.2.src ≠ 2) ∧ (∀ e ∈ usedOpds y.words y.cols, e.2.src ≠ 2) ∧ (∀ e ∈ usedOpds z.words z.cols, e.2.src ≠ 2) := by decide +kernel
/-- An AFFSCAN that starts with CINIT; a DET task of one unit at its padded completion. -/
theorem test_wit_ArrayEvents_cinit : let x := { task none 0 none false with words := [0x100008002#64, 0#64, 0x10100#64, 0#64, 0x10100#64, 0#64, 0#64, 0#64] }
    (sK (kT x)).startable 0 2 = some x ∧ tKind x.words = 2 ∧ rw x.words 0 15 1 = 1 ∧ x.unit = 0 ∧ ((sK (kT x)).cluster 0).det = false := by decide +kernel
theorem test_wit_ArrayEvents_endDet : let x := task (some 2) 0 (some 0) false
    let s := sK { kT x with det := true }
    (s.cluster 0).tasks.find? (fun t => t.arr == some 2 && t.pad == some 0) = some x ∧ x.done = false ∧ x.fail = none ∧ tUnits x.words = x.unit + 1 ∧ NMap.get? s.clusters 0 ≠ none :=
  ⟨rfl, rfl, rfl, by decide +kernel, by decide +kernel⟩
/-- A memory error in the scratchpad, and a translation fault of an operand in memory. -/
def tGlob : Task := { tRun with words := tRun.words.set 2 0x40120#64 }
theorem test_wit_ArrayEvents_fault : ((sK { kT tRun with det := true }).cluster 0).running 2 = some tRun ∧ tRun.fail = none ∧ tRun.ptag < 64 ∧ tRun.unit < tUnits tRun.words ∧
    ((sK (kT tRun)).cluster 0).det = false ∧ NMap.get? (sK (kT tRun)).cores tRun.core ≠ none ∧ tRun.reaches 0 false ≠ [] ∧
    ((sK (kT tGlob)).cluster 0).running 2 = some tGlob ∧ tGlob.reaches tGlob.unit true ≠ [] ∧ (∀ k, k < tUnits tGlob.words - tGlob.unit → tGlob.reaches (tGlob.unit + k) true ≠ []) :=
  ⟨by decide +kernel, rfl, by decide, by decide +kernel, rfl, by decide +kernel⟩
def tEnd : Task := task (some 2) 0 (some 0) true
theorem test_wit_ArrayEvents_end : ((sK (kT tEnd)).cluster 0).tasks.find? (fun t => t.arr == some 2 && t.pad == some 0) = some tEnd ∧ tEnd.done = true ∧ tEnd.ptag < 64 ∧
    NMap.get? (sK (kT tEnd)).cores tEnd.core ≠ none ∧ NMap.get? (sK (kT tEnd)).clusters 0 ≠ none := ⟨rfl, rfl, by decide, by decide +kernel, by decide +kernel⟩
theorem test_wit_ArrayEvents_paired : let k := { k1 with paired := true, winIc := 128 }
    NMap.get? (sK k).clusters 0 = some k ∧ k.paired = true ∧ k.winIc % 64 = 0 := ⟨rfl, rfl, rfl⟩
def side (started : Bool) : SideOp :=
  { id := 31, core := 0, wave := 0, uid := 2, grid := 1, kind := .rd, desc := 0#64, n := 1, regs := [5], data := [List.replicate 64 1#32], ptag := 6, ctags := [], started := started, rem := 0 }
def kS (o : SideOp) : Cluster := { k1 with sides := [o] }
theorem test_wit_ArrayEvents_side : ((sK (kS (side false))).cluster 0).sides.find? (fun x => x.id == 31) = some (side false) ∧
    (((sK (kS (side false))).updCluster 0 (fun cl => cl.bindPair 0)).cluster 0).arrayOf 0 0 = some 0 ∧ (sK (kS (side false))).tagsReady 0 [] = true ∧
    ((sK (kS (side true))).cluster 0).sides.find? (fun x => x.id == 31) = some (side true) ∧ ((sK (kS (side true))).cluster 0).det = false ∧
    ∃ w, (sK (kS (side true))).wave? 0 0 = some w ∧ w.uid = 2 ∧ w.later 5 31 = 0#64 :=
  ⟨rfl, by decide +kernel, by decide +kernel, rfl, rfl, w1, rfl, rfl, rfl⟩
def empt : EmptyOp := { id := 32, core := 0, grid := 1, ptag := 7, ctags := [], rem := some 0 }
theorem test_wit_ArrayEvents_empty : ((sK { k1 with empties := [empt] }).cluster 0).empties.find? (fun x => x.id == 32) = some empt ∧ empt.ptag < 64 ∧ empt.rem = some 0 ∧
    (sK { k1 with empties := [{ empt with rem := none }] }).tagsReady 0 [] = true ∧ (sK { k1 with empties := [{ empt with rem := none }] }).isDet 0 = false :=
  ⟨rfl, by decide, rfl, by decide +kernel, by decide +kernel⟩

theorem test_wit_ArrayEvents_away : (sK { k1 with empties := [empt] }).away empt.core empt.uid = false := by decide +kernel
def cmd (k : CopyKind) (words : List W64) (started : Bool) : CopyCmd :=
  { id := 33, core := 0, wave := 0, uid := 2, grid := 1, kind := k, words := words, ptag := 8, ctags := [], unit := if started then some 1 else none, started := started, done := 0, rem := 0,
    closed := false, late := 0, buf := [], got := none }
/-- One word from 0x4000 to 0x5000 of global memory. -/
def cWords : List W64 := [0x4000#64, 0x5000#64, 0x800000011#64, 1#64]
def kC (c : CopyCmd) : Cluster := { k1 with copies := [c] }
theorem test_wit_CopyEvents_start : let c := cmd .cpy cWords false
    (sK (kC c)).copy? 0 33 = some c ∧ (sK (kC c)).tagsReady 0 [] = true ∧ ((sK (kC c)).cluster 0).allStopped = false ∧ cpTotal c.words ≠ 0 ∧ cw c.words 2 0 3 ≠ 5 ∧ cw c.words 2 4 3 ≠ 5 ∧
    (sK (kC c)).isDet 0 = false ∧ ((sK (kC c)).cluster 0).freeUnit = some 0 ∧ (sK (kC c)).cpyrHeld c = false :=
  ⟨rfl, by decide +kernel⟩
def sKdet (c : CopyCmd) : State := mk c1 { kC c with det := true } p1 gDet none
theorem test_wit_CopyEvents_end : let c := cmd .cpy cWords true
    (sKdet c).copy? 0 33 = some c ∧ (sKdet c).partOf 0 = some p1 ∧ (sKdet c).isDet 0 = true ∧
    (match State.cpRun c p1 0 1 { sKdet c with fresh := 2 } 0 with | (1, none, u) => (NMap.get? u.cores 0).isSome | _ => false) = true :=
  ⟨rfl, by decide +kernel, by decide +kernel, by decide +kernel⟩
def qIn : CopyCmd := cmd .cpyq [0x4000#64, 3#64, 0x800000061#64, 64#64, 0#64, 0#64, 4#64] true
def qOut : CopyCmd := cmd .cpyo [3#64, 0x5000#64, 0x800000016#64, 64#64, 0#64, 0#64, 0#64, 0#64, 0#64, 4#64] true
def cQ (l : List QEnt) : Core := { c1 with queues := [(3, { bound := some 0, head := 7, ents := l })] }
theorem test_wit_CopyEvents_push : let s := mk (cQ []) (kC qIn) p1 g1 none
    s.copy? 0 33 = some qIn ∧ s.partOf 0 = some p1 ∧ NMap.get? (s.core 0).queues 3 = some { bound := some 0, head := 7, ents := [] } ∧
    (match State.cpGather qIn p1 64 s 0 with | (.ok _, u) => (NMap.get? u.cores 0).isSome && (NMap.get? u.clusters 0).isSome | _ => false) = true :=
  ⟨rfl, by decide +kernel, rfl, by decide +kernel⟩
/-- Four words of a scratchpad to another place of it, without a format; under DET all at once, and with two points left. -/
def cRaw (done : Nat) : CopyCmd := { cmd .cpy [0x0#64, 0x1000#64, 0x800000000#64, 4#64, 0x400000004#64, 0x400000004#64, 0#64, 0#64] true with done := done }
theorem test_wit_CopyEvents_raw : let w := (cRaw 2).words
    (sKdet (cRaw 0)).copy? 0 33 = some (cRaw 0) ∧ ((sKdet (cRaw 0)).isDet 0 = true ∧ cpTotal w = 4 ∧ cw w 2 0 3 = 0 ∧ cw w 2 4 3 = 0 ∧ cw w 2 16 8 = 0 ∧ 2 ^ cw w 2 34 2 = 4 ∧
    cpCore w 0 0 = 0 ∧ NMap.get? (sKdet (cRaw 0)).cores 0 ≠ none) ∧ ((sKdet (cRaw 0)).core 0).ops = [] ∧
    (∀ n, n < 4 → ∀ j, j < 4 → ∀ m, m < 4 → ∀ i, i < 4 → copySrc w n j ≠ copyDst w m i) ∧ cpTotal (cRaw 3).words = (cRaw 3).done + 1 :=
  ⟨rfl, by decide +kernel, rfl, by decide +kernel,
    by decide +kernel⟩
/-- The one word of global memory, as it is and from .f32 to .f16. -/
theorem test_wit_CopyEvents_last : let c := cmd .cpy cWords true
    let s := sK (kC c)
    let d : List W64 := [0x4000#64, 0x5000#64, 0x811100011#64, 1#64]
    s.copy? 0 33 = some c ∧ cpTotal c.words = c.done + 1 ∧ cw c.words 2 0 3 = 1 ∧ cw c.words 2 4 3 = 1 ∧ tlbXlat (s.cluster 0).tlb p1 0x4000 .rd = some tlbAll ∧
    tlbXlat (s.cluster 0).tlb p1 0x5000 .wr = some tlbAll ∧ isRemote (tlbAll.at 0x5000) = false ∧ s.mem.load (tlbAll.at 0x4000) (cpSrcSize c.words) = some 0 ∧
    (((s.mem.noteRead (tlbAll.at 0x4000) .cg).noteCopy (tlbAll.at 0x4000) (dieOf 0) .cg).store (tlbAll.at 0x5000) (cpDstSize c.words) 0).isSome = true ∧
    cw d 2 16 8 = 0x10 ∧ (FFmt.of (cw d 2 16 8)).isSome = true ∧ (FFmt.of (cw d 2 24 8)).isSome = true :=
  ⟨rfl, by decide +kernel⟩
def qRaw : CopyCmd := cmd .cpyq [0x4000#64, 3#64, 0x800000060#64, 64#64, 0#64, 0#64, 4#64] true
theorem test_wit_CopyEvents_pushRaw : let s := mk (cQ []) (kC qRaw) p1 g1 none
    s.copy? 0 33 = some qRaw ∧ cw qRaw.words 2 0 3 = 0 ∧ cw qRaw.words 2 16 8 = 0 ∧ qRaw.unit.isSome = true ∧ NMap.get? (s.core 0).queues 3 = some { bound := some 0, head := 7, ents := [] } ∧
    (s.core 0).ops = [] := ⟨rfl, by decide +kernel, by decide +kernel, rfl, rfl, rfl⟩
def qEnd : CopyCmd := { cmd .cpyo [3#64, 0x1000#64, 0x800000006#64, 64#64, 0#64, 0#64, 0#64, 0#64, 0#64, 4#64] true with closed := true, done := 1, buf := [List.replicate 256 7#8] }
theorem test_wit_CopyEvents_closed : let s := mk (cQ []) (kC qEnd) p1 g1 none
    s.copy? 0 33 = some qEnd ∧ s.partOf 0 = some p1 ∧ cw qEnd.words 2 4 3 = 0 ∧ cw qEnd.words 2 16 8 = 0 ∧ NMap.get? s.cores 0 ≠ none ∧ (s.core 0).ops = [] ∧
    (∀ y ∈ qEnd.buf, y.length = 256) ∧ qEnd.buf.length ≤ qEnd.done :=
  ⟨rfl, by decide +kernel, by decide +kernel, by decide +kernel, by decide +kernel, rfl, by decide +kernel, by decide⟩
/-- A remote copy that has waited 1 ms, one that has not, and a local one. -/
theorem test_wit_CopyEvents_fault : let c := { cmd .cpyr wRw true with far := 1 }
    c.overdue responseTime = true ∧ c.overdue (responseTime - 1) = false ∧ c.remote = true ∧ (sK (kC c)).linkUp = false ∧ (cmd .cpy cWords true).overdue responseTime = false ∧
    (cmd .cpy cWords true).remote = false := by decide +kernel
theorem test_wit_CopyEvents_pushDet : let s := mk (cQ []) { kC qIn with det := true } p1 gDet none
    s.copy? 0 33 = some qIn ∧ s.isDet 0 = true ∧ qIn.late < (s.ratio 0).scale 8 ∧ (mk (cQ []) (kC qIn) p1 g1 none).isDet 0 = false ∧ qIn.unit.isSome = true :=
  ⟨rfl, by decide +kernel, by decide +kernel, by decide +kernel, rfl⟩
/-- Two entries of words, which stand apart after the first; and two of bytes that all go to one word. -/
theorem test_wit_CopyEvents_cut : let c := { qOut with words := qOut.words.set 3 128#64 }
    ¬ (cpEntries c ≤ 0 + 1) ∧ cpCut c ((0 + 1) * cpPer c) = true ∧ qOut.unit.isSome = true ∧ cpEntries qOut ≤ 0 + 1 ∧
    (let b := { qOut with words := [3#64, 0x5000#64, 0x16#64, 512#64, 0#64, 0#64, 0#64, 0#64, 0#64, 0#64] }
     ¬ (cpEntries b ≤ 0 + 1) ∧ cpCut b ((0 + 1) * cpPer b) = false) :=
  ⟨by decide +kernel, by decide +kernel, rfl, by decide +kernel, by decide +kernel, by decide +kernel⟩
theorem test_wit_CopyEvents_pop : let e : QEnt := ⟨7, true, [(0, 5#32)]⟩
    let s := mk (cQ [e]) (kC qOut) p1 g1 none
    s.copy? 0 33 = some qOut ∧ s.partOf 0 = some p1 ∧ NMap.get? (s.core 0).queues 3 = some { bound := some 0, head := 7, ents := [e] } ∧
    (match State.cpScatter qOut p1 64 (s.updCore 0 (fun k => k.popQ 3)) 0 (bytesOf e.data) with
      | (none, u) => decide ((u.core 0).queues = ((s.updCore 0 (fun k => k.popQ 3)).core 0).queues) | _ => false) = true :=
  ⟨rfl, by decide +kernel, rfl, by decide +kernel⟩
theorem test_wit_CopyEvents_popDet : let e : QEnt := ⟨7, true, [(0, 5#32)]⟩
    let s := mk (cQ [e]) { kC qOut with det := true } p1 gDet none
    let c := { qOut with closed := true, done := 1, buf := [bytesOf e.data] }
    let u := mk (cQ []) { kC c with det := true } p1 gDet none
    s.copy? 0 33 = some qOut ∧ s.partOf 0 = some p1 ∧ s.isDet 0 = true ∧ qOut.late < (s.ratio 0).scale 8 ∧ NMap.get? (s.core 0).queues 3 = some { bound := some 0, head := 7, ents := [e] } ∧
    u.copy? 0 33 = some c ∧ u.partOf 0 = some p1 ∧ (match State.cpFlush c p1 c.buf u 0 with | (1, none, v) => (NMap.get? v.cores 0).isSome | _ => false) = true :=
  ⟨rfl, by decide +kernel, by decide +kernel, by decide +kernel, rfl, rfl, by decide +kernel, by decide +kernel⟩
def gDone : Grid := { g1 with blocks := [] }
theorem test_wit_CopyEvents_orphan : let c := { cmd .cpy cWords false with ctags := [9], waits := [9] }
    (mk c1 (kC c) p1 gDone none).copy? 0 33 = some c ∧ (mk c1 (kC c) p1 gDone none).orphaned 0 1 33 [9] = true := ⟨rfl, by decide +kernel⟩
/-- COLL of one word between packages 5 and 9, gather: ranks' IDs at 0x6000. -/
def coll : CopyCmd := cmd .coll [0x4000#64, 0x5000#64, 0x0000000000000001#64, 0x6000#64, 2#64] true
theorem test_wit_CopyEvents_collDet : let c := { coll with rem := 5 }
    (sKdet c).copy? 0 33 = some c ∧ (sKdet c).isDet 0 = true ∧ c.rem ≠ 0 := ⟨rfl, by decide +kernel, by decide⟩
/-- A failure under DET before its padded ic; failed commands at it; an empty copy; a COLL without a station. -/
def cFail (k : CopyKind) (words : List W64) : CopyCmd := { cmd k words true with fail := some (2, 0, 0x4000), closed := true }
theorem test_wit_CopyEvents_late : let c := { cmd .cpy cWords true with rem := 5 }
    (sKdet c).copy? 0 33 = some c ∧ (sKdet c).isDet 0 = true ∧ c.started = true ∧ c.rem ≠ 0 ∧ c.fail = none ∧
    (∀ k ∈ [CopyKind.cpy, .cpyq, .cpyo, .coll], (sKdet (cFail k cWords)).copy? 0 33 = some (cFail k cWords) ∧ (cFail k cWords).rem = 0 ∧ (cFail k cWords).closed = true) ∧
    NMap.get? (sKdet c).cores c.core ≠ none ∧ NMap.get? (sKdet c).clusters 0 ≠ none := by decide +kernel
theorem test_wit_CopyEvents_empty : let c := cmd .cpyr (cWords.set 3 0#64) false
    (sK (kC c)).copy? 0 33 = some c ∧ (sK (kC c)).tagsReady 0 [] = true ∧ (sK (kC c)).cpyrHeld c = false ∧ ((sK (kC c)).cluster 0).allStopped = false ∧ c.kind ≠ .coll ∧
    cpTotal c.words = 0 ∧ c.ptag < 64 := by decide +kernel
theorem test_wit_CopyEvents_noLink : (sK (kC coll)).copy? 0 33 = some coll ∧ coll.got = none ∧ (sK (kC coll)).linkUp = false ∧ (sK (kC coll)).isDet 0 = false := by decide +kernel
def sColl : State := { mk c1 (kC coll) p1 g1 none with mem := { m1 with home := Memory.store m1.home 0x6000 2 5 }, pack := (sUp oLd).pack }
theorem test_wit_CopyEvents_coll : sColl.copy? 0 33 = some coll ∧ sColl.linkUp = true ∧ sColl.partOf 0 = some p1 ∧ 0 < (sColl.cluster 0).unitStop.length ∧ (∀ c ∈ (sColl.cluster 0).copies, c.unit ≠ some 0) ∧
    (match (sColl.engRead 0 p1 .g 0x6000 2 none).1, sColl.engWords 0 p1 1 0x4000 with
      | .ok x, .ok mine =>
        let out := collOut 0 ((SetOp.of 0).getD .addF32) 1 0 [mine, [7]]
        decide (x % 1024 = p1.acc) && (match State.engPut 0 p1 (out.map (·.1)) sColl 0x5000 0 with | (_, none, u) => (NMap.get? u.cores 0).isSome && (NMap.get? u.clusters 0).isSome | _ => false)
      | _, _ => false) = true := ⟨rfl, rfl, by decide +kernel, by decide, by decide +kernel, by decide +kernel⟩

/-! ### Witnesses: barriers, grids and partitions -/

def wB : Wave := { w1 with splits := [(0, { Split.start 0 100 0xFF#64 0 with bar := some ⟨.bar 0, 0, false, none⟩ })] }
def gB : Grid := { g1 with bars := [⟨⟨.bar 0, 0⟩, 0⟩] }
def sB : State := mk { c1 with waves := [(0, wB)] } k1 p1 gB none
theorem test_wit_BarrierEvents_open : sB.grid? 1 = some gB ∧ gB.bars[0]? = some ⟨⟨.bar 0, 0⟩, 0⟩ ∧ sB.barReady gB ⟨.bar 0, 0⟩ = true := ⟨by decide +kernel, rfl, by decide +kernel⟩
def spRel : Split := { Split.start 0 100 0xFF#64 0 with bar := some ⟨.bar 0, 0, true, some 0⟩ }
def wRel : Wave := { w1 with splits := [(0, spRel)] }
theorem test_wit_BarrierEvents_release : 0 / 8 = 0 ∧ (sW wRel).wave? 0 0 = some wRel ∧ NMap.get? wRel.splits 0 = some spRel ∧ wRel.trap = none ∧ spRel.released.isSome = true :=
  ⟨rfl, rfl, rfl, rfl, by decide +kernel⟩
def spLate : Split := { Split.start 0 100 0xFF#64 0 with bar := some ⟨.gbar 0, 0, false, some 0⟩ }
def wLate : Wave := { w1 with splits := [(0, spLate)] }
def gLate : Grid := { gDet with bars := [⟨⟨.gbar 0, 0⟩, 0⟩] }
def sLate : State := mk { c1 with waves := [(0, wLate)] } { k1 with det := true } p1 gLate none
theorem test_wit_BarrierEvents_deadline : sLate.grid? 1 = some gLate ∧ sLate.wave? 0 0 = some wLate ∧ wLate.grid = 1 ∧ sLate.barDue gLate ⟨⟨.gbar 0, 0⟩, 0⟩ 0 = true ∧ gLate.bars = [⟨⟨.gbar 0, 0⟩, 0⟩] ∧ gLate.joins ⟨.gbar 0, 0⟩ wLate = true ∧ spLate.waits (.gbar 0) 0 = true ∧
    NMap.get? wLate.splits 0 = some spLate ∧ gLate.det = true ∧ wLate.trap = none ∧ (sLate.core 0).overrun = false ∧ sLate.partOf 0 = some p1 ∧ partAt sLate p1.num p1 :=
  ⟨by decide +kernel, rfl, rfl, by decide +kernel, rfl, by decide +kernel, by decide +kernel, rfl, rfl, rfl, rfl, by decide +kernel, rfl⟩
def oPad : VarOp := { oLd with padded := true }
def sPad : State := mk { c1 with ops := [oPad] } { k1 with det := true } p1 gDet none
theorem test_wit_BarrierEvents_padding : sPad.isDet 0 = true ∧ (sPad.core 0).ops.any (fun x => x.id == oPad.id && x.padded && x.rem == 0) = true ∧ sPad.partOf 0 = some p1 ∧
    p1.overrun.toNat ≤ 0xFFFFFFFF ∧ (sPad.cluster 0).grid = some 1 ∧ sPad.grid? 1 = some gDet ∧ sPad.padDue 0 99 = false ∧ sPad.lateDue 0 = [] ∧
    (mk { c1 with ops := [oPad], lates := [oPad.id] } { k1 with det := true } p1 gDet none).lateDue 0 ≠ [] :=
  ⟨by decide +kernel, rfl, by decide +kernel, by decide, rfl, by decide +kernel⟩

/-- A second block waits for cores 8 to 15. -/
def gNext : Grid := { g1 with nblocks := 2, cores := [0, 8], record := g1.record.set 1 0x0000000200000002#64 }
def sGang : State :=
  { mk c1 k1 p1 gNext none with
    cores := (0, c1) :: (List.range 31).map (fun i => (i + 1, Core.reset))
    clusters := [(0, k1), (1, Cluster.reset), (2, Cluster.reset), (3, Cluster.reset)] }
theorem test_wit_GridEvents_gang : (sGang.updGrid 1 (fun g => { g with armed := true })).grid? 1 = some { gNext with armed := true } ∧
    ((sGang.updGrid 1 (fun g => { g with armed := true })).nextGang { gNext with armed := true }).isSome = true := ⟨by decide +kernel, by decide +kernel⟩
def wEnd : Wave := { w1 with splits := [], exited := true }
theorem test_wit_GridEvents_wave : (sW wEnd).wave? 0 0 = some wEnd ∧ wEnd.exited = true ∧ wEnd.drain = [] ∧ (sW wEnd).writesOpen 0 wEnd.uid = false ∧ wEnd.grid ≠ 0 ∧
    isCmdCore 0 = false ∧ ((sW wEnd).core 0).queues = [] := ⟨rfl, rfl, rfl, by decide +kernel, by decide, by decide +kernel, rfl⟩
theorem test_wit_GridEvents_end : let s := mk { c1 with waves := [] } k1 p1 gDone none
    s.grid? 1 = some gDone ∧ s.gridDone gDone = true := ⟨by decide +kernel, by decide +kernel⟩
/-- A request for BREQ written while the grid ran. -/
theorem test_wit_GridEvents_breq : let k := { k1 with breqNext := some true }
    let s := mk { c1 with waves := [] } k { p1 with held := [(0x105, 7#64)] } gDone none
    s.grid? 1 = some gDone ∧ s.gridDone gDone = true ∧ NMap.get? s.clusters 0 = some k ∧ k.grid = some 1 ∧ k.breqNext = some true ∧
    partAt s gDone.part { p1 with held := [(0x105, 7#64)] } ∧ (∀ x ∈ s.grids, x.part = gDone.part → x.id = 1) :=
  ⟨by decide +kernel, by decide +kernel, rfl, rfl, rfl, rfl, by decide +kernel⟩
/-- No context keeps a grid; one that a forced save stored keeps one. -/
theorem test_wit_GridEvents_kept : ({ p1 with held := [(0x105, 7#64)] } : Part).keepsGrids = false ∧ sN.running 0 = true ∧ sN.launched 0 = true ∧
    ({ sN with grids := [] } : State).launched 0 = false := by decide +kernel
/-- A quantum grid with a block that waits; and one with block 0 saved. -/
def gQt : Grid := { gNext with record := g1.record.set 0 (g1.record.getD 0 0#64 ||| 0x100000#64) }
def sQt : State := mk { c1 with earned := [(0, 5)] } k1 { p1 with quant := 5#64 } gQt none
theorem test_wit_GridEvents_expiry : sQt.expired 0 = some (gQt, 0) ∧ partAt sQt gQt.part { p1 with quant := 5#64 } ∧ (sQt.core 0).leaving = none ∧ (0, 0) ∈ gQt.gangOn 0 false :=
  ⟨by decide +kernel, rfl, rfl, by decide +kernel⟩
def gSv : Grid := { g1 with record := g1.record.set 13 0x8000#64, blocks := [(0, .savedOn 0)] }
def saved0 : SavedBlock := { grid := 1, block := 0, waves := [(0, w1)], scratch := [(3, 9#8)], rows := [], queues := [], ops := [], tags := 4#64, tagerr := 0#64 }
def sSv : State := { mk { c1 with waves := [], saved := [saved0] } k1 p1 gSv none with mem := { m1 with home := Memory.store m1.home 0x8000 8 (ctrlWord 2 w1.nv w1.ns false .x1 0 true) } }
theorem test_wit_GridEvents_resume : (sSv.core 0).saved = saved0 :: [] ∧ sSv.grid? saved0.grid = some gSv ∧ sSv.partOf 0 = some p1 ∧ gSv.waiting = false ∧ p1.saving = 0 ∧
    gSv.gangOn 0 true = [(0, 0)] ∧ sSv.canResume gSv (0, 0) = true ∧ saved0.waves.all (fun e => sSv.slotValid p1 (gSv.saveArea 0 + e.2.widx * 40960) e.2 (sSv.cluster (0 / 8))) = true ∧
    ({ sSv with mem := m1 } : State).canResume gSv (0, 0) = true ∧ saved0.waves.all (fun e => ({ sSv with mem := m1 } : State).slotValid p1 (gSv.saveArea 0 + e.2.widx * 40960) e.2 (sSv.cluster (0 / 8))) = false :=
  ⟨rfl, by decide +kernel, by decide +kernel, by decide +kernel, rfl, by decide +kernel⟩
def areq : AllocReq := { slot := 7, islands := [3], wins := [(2 ^ 30, 2 ^ 30)], cisBase := 65536, cisLen := 65536, acc := 5, staging := [], peers := [], cmdCore := 1, ring := 0 }
theorem test_wit_GridEvents_allocation : sN.allocOk areq [12, 13, 14, 15] = true ∧ sN.allocOk { areq with islands := [0] } [0, 1, 2, 3] = false := ⟨by decide +kernel, by decide +kernel⟩
theorem test_wit_GridEvents_scrub : partAt (mk c1 k1 { p1 with scrub := some 0 } g1 none) 0 { p1 with scrub := some 0 } ∧ Part.allCores { p1 with scrub := some 0 } ≠ [] ∧
    partAt sN 0 p1 ∧ (NMap.get? sN.pack.banks 0).isSome = true := ⟨rfl, by decide +kernel, rfl, rfl⟩
theorem test_wit_GridEvents_context : partAt sN 0 p1 ∧ ({ part := 0, ctx := 0, entry := 0#64, saveBase := 4096#64 } : CtxReq).ctx = p1.ctxs.length ∧ p1.ctxs.length < 16 ∧ (4096#64).toNat % 4096 = 0 ∧ (4095#64).toNat % 4096 ≠ 0 ∧
    sN.stored p1 { part := 0, ctx := 0, entry := 0#64, saveBase := 0x3000#64, restore := true } = none :=
  ⟨rfl, rfl, by decide, by decide, by decide, by decide +kernel⟩
/-- A node save stands in the area at 0x3000. -/
def sStored : State := { sN with mem := { m1 with home := Memory.store m1.home 0x3000 8 3 } }
theorem test_wit_GridEvents_restore : (sStored.stored p1 { part := 0, ctx := 0, entry := 0#64, saveBase := 0x3000#64, restore := true }).isSome = true ∧ (0x3000#64).toNat % 4096 = 0 ∧
    sStored.pack.power ≠ .off ∧ ((vaLoad sN.mem p1 (0x3000#64).toNat 8).getD 0).testBit 0 = false ∧ saved0.block = 0 ∧ gSv.perCore = 1 ∧
    ({ gSv with record := gSv.record.set 0 0x1101000420000#64 } : Grid).perCore ≠ 1 := by decide +kernel
def ctx0 : Ctx := ⟨0, 0#64, 4096#64, 0, none, false, false⟩
def pNext : Part := { p1 with ctxs := [ctx0], next := some 0 }
theorem test_wit_GridEvents_switch : partAt ({ mk c1 k1 pNext g1 none with grids := [] } : State) 0 pNext ∧ ({ mk c1 k1 pNext g1 none with grids := [] } : State).running 0 = false ∧ pNext.num = 0 ∧ pNext.run = none ∧ pNext.saving = 0 ∧ pNext.thermal = false ∧ pNext.scrub = none ∧
    pNext.next.bind (fun c => pNext.ctxs[c]?) = some ctx0 ∧ ctx0.save = none := ⟨rfl, rfl, rfl, rfl, rfl, rfl, rfl, rfl, rfl⟩
/-- Two contexts; the slice of 1,000 µs and its grace are over after 2 s. -/
def pTwo : Part := { p1 with ctxs := [ctx0, { ctx0 with num := 1 }], run := some 0, slice := 1000#64 }
def sTwo : State := { mk c1 k1 pTwo g1 none with pack := { Pack.reset with ns := 2000000000 } }
theorem test_wit_GridEvents_forced : partAt sTwo 0 pTwo ∧ pTwo.num = 0 ∧ pTwo.saving = 0 ∧ pTwo.run.isSome = true ∧ sTwo.forcedDue pTwo = true := ⟨rfl, rfl, rfl, rfl, by decide +kernel⟩

/-! ### Witnesses: power, registers, the host -/

def kFast : Cluster := { k1 with boost := 1#64 }
def sOver : State := { sK k1 with pack := { Pack.reset with overLim := true } }
theorem test_wit_PowerEvents_throttle : sOver.pack.overLim = true ∧ sOver.pack.retired.contains 0 = false ∧ NMap.get? sOver.clusters 0 = some k1 ∧ k1.target ∈ ladder ∧ 470 < k1.target ∧ k1.grid ≠ none := ⟨rfl, rfl, rfl, by decide +kernel, by decide +kernel, by decide⟩
theorem test_wit_PowerEvents_power : (400 ≤ bitsNat (0x190E000A00000000#64).toNat 44 12 ∨ 1 ≤ bitsNat (0x40000000#64).toNat 30 7) ∧ bitsNat (0x1000000000#64).toNat 30 7 ≤ 64 :=
  ⟨by decide, by decide⟩
/-- One compute cluster is left; it runs at half rate, so it is not eligible; the time is between ticks of the pool. -/
def sBo : State := { sK { k1 with ratio := .half } with pack := { Pack.reset with ns := 4000, retired := (List.range 95).map (· + 1) } }
theorem test_wit_PowerEvents_boundary : (sBo.compute.all (fun c => !(sBo.eligible c) && decide ((sBo.cluster c).target ≤ 940))) = true ∧ sBo.timeNs / 4000 % 4 ≠ 0 ∧ 0 ∈ sBo.compute :=
  ⟨by decide +kernel, by decide +kernel, by decide +kernel⟩
/-- Cluster 0 asks for a boost: with a permit and without, and after a denial with less than REARM of them. -/
def sPool (n : Nat) (denied : Bool) : State :=
  { sK { k1 with boost := 1#64, denied := denied } with pack := { Pack.reset with ns := 4000, count := n, retired := (List.range 95).map (· + 1) } }
theorem test_wit_PowerEvents_claims : (∀ c ∈ (sPool 1 false).compute, NMap.get? (sPool 1 false).clusters c ≠ none) ∧ boostPool (sPool 1 false) = 1 ∧
    (sPool 1 false).compute.filter (claimsBoost (sPool 1 false) 1) = [0] ∧ boostPool (sPool 0 false) = 0 ∧ (sPool 0 false).compute.filter (claimsBoost (sPool 0 false) 0) = [0] ∧
    claimsBoost (sPool 7 true) 7 0 = false ∧ claimsBoost (sPool 8 true) 8 0 = true ∧ (sPool 7 true).eligible 0 = true ∧ sBo.eligible 0 = false ∧ 0 ∈ sBo.compute := by decide +kernel
theorem test_wit_PowerEvents_slope : let k := { k1 with grid := none }
    NMap.get? (sK k).clusters 0 = some k ∧ k.grid = none ∧ (∀ e ∈ ({ sK k with parts := [] } : State).parts, e.2.clusters.contains 0 = true → ({ sK k with parts := [] } : State).launched e.1 = false) ∧
    partAt sN 0 p1 ∧ p1.clusters.contains 0 = true ∧ sN.launched 0 = true ∧ sN.pack.power ≠ .off ∧ NMap.get? sN.pack.sensors 127 = some (Sensor.reset 127) ∧ NMap.get? sN.pack.sensors 0 = some (Sensor.reset 0) :=
  ⟨rfl, rfl, fun _ h => absurd h (by simp), rfl, by decide +kernel, by decide +kernel, by decide, by decide +kernel, by decide +kernel⟩
/-- Thresholds in order and out of order; a trip. -/
theorem test_wit_PowerEvents_thermal : bitsNat (BitVec.ofNat 64 (10 * 2 ^ 18 + 20 * 2 ^ 28 + 30 * 2 ^ 38)).toNat 18 10 < bitsNat (BitVec.ofNat 64 (10 * 2 ^ 18 + 20 * 2 ^ 28 + 30 * 2 ^ 38)).toNat 28 10 ∧
    bitsNat (BitVec.ofNat 64 (10 * 2 ^ 18 + 20 * 2 ^ 28 + 30 * 2 ^ 38)).toNat 28 10 < bitsNat (BitVec.ofNat 64 (10 * 2 ^ 18 + 20 * 2 ^ 28 + 30 * 2 ^ 38)).toNat 38 10 ∧ ¬ (bitsNat (0#64).toNat 18 10 < bitsNat (0#64).toNat 28 10) ∧
    levelAfter (Sensor.reset 0) 440 = 3 ∧ (Sensor.reset 0).level < 3 :=
  ⟨by decide, by decide, by decide, by decide, by decide⟩
theorem test_wit_EnergyAndResets : sumNat ([] : List Nat) = 0 ∧ (7 : Nat) < 8 ∧ State.reset.pack.power ≠ .off ∧ State.reset.pack.power = .on ∧ { State.reset with pack := { Pack.reset with power := .recovery } }.pack.power ≠ .on ∧ (∀ n, n < 128 → State.reset.level n ≠ 3) ∧
    NMap.get? State.reset.pack.stations 3 = some Station.reset ∧ NMap.get? State.reset.pack.nv.banks 7 = some EBank.zero :=
  ⟨rfl, by decide, by decide, rfl, by decide, by decide +kernel, rfl, rfl⟩
/-- Two partitions own islands 0 and 2; their banks keep R348's sum. -/
def sBank : State := { State.reset with
  parts := [(0, { placedPart with islands := [0], busyNs := 3 }), (3, { placedPart with num := 3, islands := [2], busyNs := 1 })]
  pack := { Pack.reset with banks := [(0, { EBank.zero with total := 3, cdyn := 1, unc := 2 }), (3, EBank.zero)] } }
theorem test_wit_EnergyAndResets_span : (NMap.sorted sBank.parts = true ∧
    (∀ i, i < 24 → ∀ a ∈ sBank.parts, ∀ b ∈ sBank.parts, a.2.islands.contains i = true → b.2.islands.contains i = true → a = b) ∧
    (NMap.get? sBank.parts 3).isSome = true ∧ (NMap.get? sBank.pack.banks 3).isSome = true ∧ poolTotal sBank [] 27 = 4 ∧ poolTotal sBank [] 26 = 0 ∧ poolTotal sBank [] 0 = 1) ∧
    EBank.Sums { EBank.zero with total := 3, cdyn := 1, unc := 2 } ∧ EBank.Sums EBank.zero ∧ writesBanks (.energySpan []) = true :=
  ⟨by decide +kernel, by unfold EBank.Sums; decide +kernel,
    by unfold EBank.Sums; decide +kernel, rfl⟩
def sHot : State := { State.reset with pack := { Pack.reset with sensors := [(5, { Sensor.reset 5 with level := 3 })] } }
theorem test_wit_EnergyAndResets_trip : sHot.level 5 = 3 := by decide +kernel
theorem test_wit_RegisterAndHostEvents : partAt sN 0 p1 ∧ sN.launched 0 = true ∧ { sN with grids := [] }.launched 0 = false ∧ sN.pack.hinge = true ∧ { p1 with invBusy := true }.invBusy = true ∧
    (mk c1 k1 { p1 with invBusy := true } g1 none).oldAccess { p1 with invBusy := true } = false ∧ stageBytes ((NMap.get? sN.mem.sstg 0).getD 0#64) = 0 ∧
    ((NMap.get? sN.mem.frr 0).getD ⟨0#64, 0#64, 0#64⟩).en = false ∧ sN.mem.l2 = [] ∧ p1.inWindow 0x3000 16 = true ∧ p1.inWindow (2 ^ 30) 16 = false ∧ (sN.mem.stackBytes 0x3000 16).isSome = true ∧
    (sN.homeBytes 0x3000 [1#8, 2#8]).isSome = true ∧ 0 + 16 ≤ p1.cisLen ∧ p1.cisLen < p1.cisLen + 1 :=
  ⟨rfl, by decide +kernel, by decide +kernel, rfl, rfl, by decide +kernel, by decide +kernel, rfl, by decide +kernel⟩
/-- An image whose header cannot be read. -/
theorem test_wit_RegisterAndHostEvents_image : (((vaBytes sN.mem p1 (((vaLoad sN.mem p1 (2 ^ 40 + 0x20) 8).getD 64) / 128 + 8) (2 ^ 40) (Nat.max ((vaLoad sN.mem p1 (2 ^ 40 + 0x20) 8).getD 64) 64)).getD []).length < 64) ∧
    vaBytes sN.mem p1 2 (2 ^ 40) 4 = none ∧ vaBytes sN.mem p1 2 (2 ^ 40 + 4) 2 = none := by decide +kernel
/-- A range an enabled register holds outside the windows; one whose storage lies in them, and one whose storage does not. -/
def frrOut : Frr := ⟨0x8000000001#64, 0#64, 0#64⟩
theorem test_wit_RegisterAndHostEvents_ranges : frrOut.en = true ∧ p1.owns frrOut.sbase (frrOut.sbase + frrOut.len) = false ∧
    sN.mem.frrOk p1 0 ⟨0x3000#64, 0#64, 0#64⟩ = true ∧ sN.mem.frrOk p1 0 ⟨0x8000000000#64, 0#64, 0#64⟩ = false ∧
    sN.pack.stepped = false ∧ sN.pack.served = false := ⟨by decide, by decide +kernel, by decide +kernel, by decide +kernel, rfl, rfl⟩
/-- An image of one section of 32 bytes, of data and of native code, for 0x10000. -/
def pImg : Part := { p1 with imgdst := 0x10000#64 }
def imgHome (kind : Nat) : Memory :=
  [(0x3000, 4, 0x4E4D5246), (0x3004, 2, 1), (0x3008, 4, 1), (0x3010, 8, 64), (0x3020, 8, 128), (0x3040, 2, kind), (0x3042, 2, 1), (0x3044, 4, 1), (0x3048, 8, 96), (0x3050, 8, 32),
    (0x305C, 1, 5), (0x3060, 8, 77)].foldl (fun m x => Memory.store m x.1 x.2.1 x.2.2) m1.home
def imgLoads (kind : Nat) : Bool :=
  let m : Mems := { m1 with home := imgHome kind }
  let b := (vaBytes m pImg 9 0x3000 128).getD []
  let places := sectAddrs 0x10000 (imgSects b)
  decide (64 ≤ b.length) && decide ((vaLoad m pImg 0x3020 8).getD 64 = 128) && (imgError m pImg 0 b places).isNone && decide (places = [some 0x10000]) &&
  (match imgSects b, walkAll m pImg 0x10000 with
    | [x], .ok pa _ => decide (x.kind = kind) && decide (x.size = 32) && decide (x.off + x.size ≤ b.length) &&
        (match m.store pa x.size (leNat ((b.drop x.off).take x.size)) with
          | some m2 => (match leafOf (m2.noteWrite pa .cg) pImg 0x10000 with
              | some l => (match (m2.noteWrite pa .cg).load l 8 with
                  | some y => ((m2.noteWrite pa .cg).store l 8 ((if y.testBit 3 then y - 8 else y) + (if y.testBit 4 then 0 else 16))).isSome
                  | none => false)
              | none => false)
          | none => false)
    | _, _ => false)
theorem test_wit_RegisterAndHostEvents_load : imgLoads 3 = true ∧ imgLoads 1 = true := by decide +kernel
/-- The same with another magic number: an error of Table 15.8. -/
theorem test_wit_RegisterAndHostEvents_imageError : let m : Mems := { m1 with home := Memory.store (imgHome 3) 0x3000 4 1 }
    let b := (vaBytes m pImg 9 0x3000 128).getD []
    64 ≤ b.length ∧ imgError m pImg 0 b (sectAddrs 0x10000 (imgSects b)) = some (1, 0) := by decide +kernel
/-- A transfer of the time 2 s ago, and one that is younger. -/
theorem test_wit_RegisterAndHostEvents_time : sN.pack.xfer = none ∧ ({ sN with pack := { Pack.reset with xfer := some 3 } } : State).pack.xfer = some 3 ∧ 3 + inputTime ≤ 3 + inputTime ∧
    2 + inputTime < 3 + inputTime ∧ (sN.homeBytes (cisternBase + p1.cisBase + 0) [1#8]).isSome = true :=
  ⟨rfl, rfl, Nat.le_refl _, by decide, by decide +kernel⟩

/-! ### Witnesses: the whole machine -/

theorem test_wit_DecodeOfEncode : Instr.wfBundle (.ld mem0) = true ∧ fitsSlot .m (.ld mem0) ∧ Instr.wfBeyrum (.fdiv b0 .f32 .rn .none) = true ∧ fitsSlot .v (.fdiv b0 .f32 .rn .none) ∧
    legalBundle ⟨31#5, .fadd b0 .f32 .rn false, .ld mem0, .nop, .exit pT⟩ :=
  ⟨by decide +kernel, .inr rfl, by decide +kernel, .inr rfl, ⟨by decide +kernel, .inr rfl⟩, ⟨by decide +kernel, .inr rfl⟩, ⟨by decide +kernel, .inl rfl⟩, by decide +kernel, .inr rfl⟩
theorem test_wit_DecodedIsLegal : (decodeSlot .c (0x061 * 2 ^ 50)).isSome = true ∧ (decodeWord (3 * 2 ^ 60)).isSome = true ∧ bitsNat (2 ^ 5) 5 11 ≠ 0 ∧ bitsNat (2 ^ 16) 5 11 = 0 ∧
    decodeSlot .v (bitsNat (2 ^ 16) 16 60) = none ∧ decodeSlot .m (bitsNat (2 ^ 76) 76 60) = none ∧ decodeSlot .x (bitsNat (2 ^ 136) 136 60) = none ∧
    decodeSlot .c (bitsNat (2 ^ 196) 196 60) = none ∧ decodeSlot .v 0 = some .nop :=
  ⟨by decide +kernel, by decide +kernel, by decide, by decide, by decide +kernel⟩
theorem test_reset_quiet : State.reset.quiet := rfl
/-- A bundle of NOPs and a Beyrum NOP run as the first step; the bundle stages and is done. -/
def stepNext (s : State) : Option State := match step s with | .next t => some t | _ => none
theorem test_wit_BundlesAreWhole : (State.reset.withFetchWord 256 0).quiet ∧ (stepNext (State.reset.withFetchWord 256 0)).any (fun t => t.issue.isNone) = true :=
  ⟨rfl, by decide +kernel⟩
theorem test_wit_MemoryStaysCanonical : (State.reset.withFetchWord 256 0).mem.wf ∧ (stepNext (State.reset.withFetchWord 256 0)).isSome = true :=
  ⟨⟨by decide +kernel, by decide +kernel, by decide +kernel⟩, by decide +kernel⟩
theorem test_step_counts : ((stepNext (State.reset.withFetchWord 256 0)).map (fun t => (t.wave 0 0).retc)) = some 1#64 ∧
    ((stepNext (State.reset.withFetchWord 64 0)).map (fun t => ((t.wave 0 0).split 0).pc)) = some (placedCode / 8 + 1) := ⟨by decide +kernel, by decide +kernel⟩
/-- What a step runs next: an event of the agenda, a native and a carried issue, and a fetch of both forms. -/
def runsNext (s : State) (i : Instr) : Bool := match s.nextAct with | .run j _ => j == i | _ => false
theorem test_wit_StepRunsDecoded : runsNext (State.reset.withFetchWord 256 0) (.bundleIssue 0) = true ∧ runsNext (State.reset.withFetchWord 64 0) (.carriedOpIssue 0) = true ∧
    runsNext { sN with cursor := some { cluster := 0, nextCore := 0, agenda := [.timeInputLoss]} } .timeInputLoss = true := ⟨by decide +kernel, by decide +kernel, by decide +kernel⟩
theorem test_wit_StepRunsDecoded_fetch : let s := State.reset.withFetchWord 256 0
    let u := State.reset.withFetchWord 64 0
    s.partOf 0 = some placedPart ∧ placedPart.inSection (s.entryOf 0 (s.wave 0 0)) (((s.wave 0 0).split 0).pc * 32) = true ∧ s.codeLoc 0 (((s.wave 0 0).split 0).pc * 32) = some placedCode ∧
    s.mem.load placedCode 32 = some 0 ∧ (s.wave 0 0).carriedNow = false ∧ u.partOf 0 = some placedPart ∧ (u.wave 0 0).carriedNow = true ∧
    placedPart.inSection (u.entryOf 0 (u.wave 0 0)) (((u.wave 0 0).split 0).pc * 8) = true ∧ u.codeLoc 0 (((u.wave 0 0).split 0).pc * 8) = some placedCode :=
  by decide +kernel

end Sys2Proof.Tests
end

/-! Proofs of the statements about the V slot (chapter 4). Every operation of a table is a run of `State.vRun` whose lane function is the rule
the table gives it; a cross-lane operation is the same over the elements of other lanes. So a statement comes down to one equation of lane
functions for each operation, and the equations come from a few lemmas about values. -/

namespace Sys2Proof.Proofs
open Sys2Proof.Machine Sys2Proof.Spec

/-! ### From an equation of lane functions to the effect of an operation -/

/-- Operations that run lane by lane under the functions their table gives them have the values of that table. -/
theorem vResult_of_runs {rules : Instr → Option LaneRule}
    (h : ∀ ins v f, rules ins = some f → ins.vinfo = some v → ∀ s, exec ins s = s.vRun v (predDest ins) (draws ins) f) : VResult rules := by
  intro ins v f hf hv s i hx
  rw [h ins v f hf hv s]
  exact vRun_does hx v _ _ f

/-- Two runs with equal lane functions are equal. -/
theorem vRun_congr {s : State} {v : VInfo} {pd : Option Nat} {rng : Bool} {f g : Issue → LaneFn} (h : ∀ i x l, f i x l = g i x l) :
    s.vRun v pd rng f = s.vRun v pd rng g := by
  rw [show f = g from funext fun i => funext fun x => funext fun l => h i x l]

/-- The effect of values computed lane by lane in an operation without a scalar form, whatever else of the state they are made from. -/
theorem vPut_vector_does {s : State} {i : Issue} (hx : Executing s i) {v : VInfo} (hv : v.isScalar = false) (f : LaneFn) :
    VDoes s (s.vPut i v none false (runLanes (i.act v.p) false v.dwide (s.vOperand i v) f)) i v none false
      (fun l => f (fun k => s.vOperand i v k l) l) := by
  refine vPut_does hx v none false _ _ (fun hs => ?_) (fun hs => ?_) (fun _ => runLanes_vector _ _ _ f)
  all_goals exact absurd hs (by simp [hv])

/-- A well-formed cross-lane operation is no scalar operation (R86). -/
theorem isScalar_of_wf_crossLane {ins : Instr} {v : VInfo} (hwf : ins.wf = true) (hv : ins.vinfo = some v) (hxl : v.xl = true) :
    v.isScalar = false := by
  have hok : v.ok = true := by
    simp only [Instr.wf, hv, Bool.and_eq_true] at hwf
    exact hwf.1
  simp only [VInfo.ok, hxl, Bool.and_eq_true] at hok
  simpa using hok.2

/-! ### One rounding of an exact result (R92) -/

@[simp] theorem isNan_negate (x : XV) : x.negate.isNan = x.isNan := by cases x <;> rfl
@[simp] theorem isSNan_negate (x : XV) : x.negate.isSNan = x.isSNan := by cases x <;> rfl

theorem isNan_of_isSNan {x : XV} (h : x.isSNan = true) : x.isNan = true := by
  cases x with
  | nan sig => rfl
  | inf neg => cases h
  | fin neg n d => cases h

theorem roundFmt_of_isNan {t : FTy} {r : RMode} {sat : Bool} {u : Nat} {x : XV} (h : x.isNan = true) :
    roundFmt t r sat u x = (FTy.qnan t, 0#6) := by
  cases x with
  | nan sig => rfl
  | inf neg => cases h
  | fin neg n d => cases h

/-- An exact result of Table 4.3 is a NaN where it is invalid and where an operand is a NaN. -/
def NanWhere (ins : List XV) (e : XV × Bool) : Prop := e.2 = true ∨ ins.any XV.isNan = true → e.1.isNan = true

/-- The flags on the way to an exact result: NV for a signalling operand, and for an invalid result. -/
def exactFlags (ins : List XV) (e : XV × Bool) : AFlags := flIf (ins.any XV.isSNan) flNV ||| flIf e.2 flNV

/-- Rounding an exact result and joining the flags found on the way is the single rounding of R92. -/
theorem natR_finish {ins : List XV} {e : XV × Bool} (hnan : NanWhere ins e) (t : FTy) (r : RMode) (sat : Bool) (u : Nat) :
    natR (finish t r sat u (e.1, exactFlags ins e)) = roundOnce t r sat u ins e := by
  obtain ⟨x, inv⟩ := e
  unfold natR finish roundOnce exactFlags
  cases inv with
  | true => simp [roundFmt_of_isNan (hnan (.inl rfl)), flIf]
  | false =>
    by_cases hn : ins.any XV.isNan = true
    · simp only [roundFmt_of_isNan (hnan (.inr hn)), hn]; simp [flIf]
    · simp only [hn]; simp [flIf]

/-! ### Exact products and sums (Table 4.3) -/

/-- The exact product with a NaN is a NaN, and not invalid. -/
theorem mulX_of_isNan {x y : XV} (h : x.isNan = true ∨ y.isNan = true) : mulX x y = (.nan false, false) := by
  fun_cases mulX x y <;> simp_all [XV.isNan]

theorem mulX_invalid {x y : XV} (h : (mulX x y).2 = true) : mulX x y = (.nan false, true) := by
  revert h
  fun_cases mulX x y <;> simp

/-- The exact sum with a NaN is a NaN, and not invalid. -/
theorem addX_of_isNan {rd : Bool} {x y : XV} (h : x.isNan = true ∨ y.isNan = true) : addX rd x y = (.nan false, false) := by
  fun_cases addX rd x y <;> simp_all [XV.isNan]

theorem addX_invalid {rd : Bool} {x y : XV} (h : (addX rd x y).2 = true) : addX rd x y = (.nan false, true) := by
  revert h
  fun_cases addX rd x y <;> simp +zetaDelta [*]

theorem nanWhere_mulX (x y : XV) : NanWhere [x, y] (mulX x y) := by
  rintro (h | h)
  · rw [mulX_invalid h]; rfl
  · rw [mulX_of_isNan (by simpa using h)]; rfl

theorem nanWhere_addX (rd : Bool) (x y : XV) : NanWhere [x, y] (addX rd x y) := by
  rintro (h | h)
  · rw [addX_invalid h]; rfl
  · rw [addX_of_isNan (by simpa using h)]; rfl

theorem mulAdd_of_invalid {rd : Bool} {x y z : XV} (h : (mulX x y).2 = true) : mulAdd rd x y z = (.nan false, true) := by
  simp [mulAdd, mulX_invalid h]

theorem mulAdd_of_valid {rd : Bool} {x y z : XV} (h : (mulX x y).2 = false) : mulAdd rd x y z = addX rd (mulX x y).1 z := by
  simp [mulAdd, h]

/-- The exact product and sum with a NaN is a NaN. -/
theorem mulAdd_of_isNan {rd : Bool} {x y z : XV} (h : (mulX x y).2 = false) (hn : x.isNan = true ∨ y.isNan = true ∨ z.isNan = true) :
    mulAdd rd x y z = (.nan false, false) := by
  rw [mulAdd_of_valid h]
  refine addX_of_isNan ?_
  by_cases hxy : x.isNan = true ∨ y.isNan = true
  · exact .inl (by rw [mulX_of_isNan hxy]; rfl)
  · exact .inr (by tauto)

theorem nanWhere_mulAdd (rd : Bool) (x y z : XV) : NanWhere [x, y, z] (mulAdd rd x y z) := by
  intro h
  cases hp : (mulX x y).2 with
  | true => rw [mulAdd_of_invalid hp]; rfl
  | false =>
    rcases h with h | h
    · rw [mulAdd_of_valid hp] at h ⊢; rw [addX_invalid h]; rfl
    · rw [mulAdd_of_isNan hp (by simpa using h)]; rfl

theorem faddX_eq (rd : Bool) (x y : XV) : faddX rd x y = ((addX rd x y).1, exactFlags [x, y] (addX rd x y)) := by
  simp [faddX, exactFlags]

theorem fmulX_eq (x y : XV) : fmulX x y = ((mulX x y).1, exactFlags [x, y] (mulX x y)) := by
  simp [fmulX, exactFlags]

theorem fmaX_eq (rd : Bool) (x y z : XV) : fmaX rd x y z = ((mulAdd rd x y z).1, exactFlags [x, y, z] (mulAdd rd x y z)) := by
  unfold fmaX
  cases hp : (mulX x y).2 with
  | true => simp [hp, mulAdd_of_invalid hp, exactFlags, flIf, Bool.or_assoc]
  | false =>
    by_cases hn : x.isNan = true ∨ y.isNan = true ∨ z.isNan = true
    · simp [hp, mulAdd_of_isNan hp hn, exactFlags, flIf, Bool.or_assoc, hn]
    · simp [hp, mulAdd_of_valid hp, exactFlags, flIf, Bool.or_assoc, hn]

theorem finish_faddX (t : FTy) (r : RMode) (sat : Bool) (u : Nat) (rd : Bool) (x y : XV) :
    natR (finish t r sat u (faddX rd x y)) = roundOnce t r sat u [x, y] (addX rd x y) := by
  rw [faddX_eq, natR_finish (nanWhere_addX rd x y)]

theorem finish_fmulX (t : FTy) (r : RMode) (sat : Bool) (u : Nat) (x y : XV) :
    natR (finish t r sat u (fmulX x y)) = roundOnce t r sat u [x, y] (mulX x y) := by
  rw [fmulX_eq, natR_finish (nanWhere_mulX x y)]

theorem finish_fmaX (t : FTy) (r : RMode) (sat : Bool) (u : Nat) (rd : Bool) (x y z : XV) :
    natR (finish t r sat u (fmaX rd x y z)) = roundOnce t r sat u [x, y, z] (mulAdd rd x y z) := by
  rw [fmaX_eq, natR_finish (nanWhere_mulAdd rd x y z)]

/-- Only whether an operand is a NaN, and a signalling one, enters the flags of a rounding, so an operand's sign does not. -/
theorem roundOnce_congr {ins ins' : List XV} (hn : ins.any XV.isNan = ins'.any XV.isNan) (hs : ins.any XV.isSNan = ins'.any XV.isSNan)
    (t : FTy) (r : RMode) (sat : Bool) (u : Nat) (e : XV × Bool) : roundOnce t r sat u ins e = roundOnce t r sat u ins' e := by
  simp only [roundOnce, hn, hs]

/-- Settles O1: each operation rounds the exact result of Table 4.3 once. -/
theorem floatArithmetic : Obligations.FloatArithmetic := by
  refine vResult_of_runs fun ins v f hf hv s => ?_
  cases ins with
  | fadd o t r sat => cases hf; cases hv; exact vRun_congr fun i x l => finish_faddX ..
  | fsub o t r sat =>
    cases hf; cases hv
    exact vRun_congr fun i x l => (finish_faddX ..).trans (roundOnce_congr (by simp) (by simp) ..)
  | fmul o t r sat => cases hf; cases hv; exact vRun_congr fun i x l => finish_fmulX ..
  | fma o t r sat => cases hf; cases hv; exact vRun_congr fun i x l => finish_fmaX ..
  | fms o t r sat =>
    cases hf; cases hv
    exact vRun_congr fun i x l => (finish_fmaX ..).trans (roundOnce_congr (by simp) (by simp) ..)
  | fnma o t r sat =>
    cases hf; cases hv
    exact vRun_congr fun i x l => (finish_fmaX ..).trans (roundOnce_congr (by simp) (by simp) ..)
  | _ => cases hf

/-! ### Minimum, maximum, comparison and class (R93, R94, R96) -/

theorem natR_fminmax (t : FTy) (greater : Bool) (a b : Nat) : natR (fminmax t greater a b) = pick t greater a b := by
  unfold natR fminmax pick
  dsimp only
  split <;> rfl

theorem lt_of_isNan {x y : XV} (h : x.isNan = true ∨ y.isNan = true) : x.lt y = false := by
  fun_cases XV.lt x y <;> simp_all [XV.isNan]

theorem eqv_of_isNan {x y : XV} (h : x.isNan = true ∨ y.isNan = true) : x.eqv y = false := by
  fun_cases XV.eqv x y <;> simp_all [XV.isNan]

/-- The bit of a comparison is its condition of Table 4.4. -/
theorem fcmpX_bit (c : FCond) (x y : XV) : (fcmpX c x y).1 = fcond c x y := by
  cases hn : x.isNan || y.isNan with
  | true =>
    have h : x.isNan = true ∨ y.isNan = true := by simpa using hn
    cases c <;> simp [fcmpX, fcond, hn, lt_of_isNan h, lt_of_isNan h.symm, eqv_of_isNan h]
  | false => cases c <;> simp [fcmpX, fcond, hn]

/-- NV is set for a signalling NaN, and for any NaN by the conditions that order (R94). -/
theorem fcmpX_flags (c : FCond) (x y : XV) :
    (fcmpX c x y).2 = flIf (x.isSNan || y.isSNan || (fcondOrders c && (x.isNan || y.isNan))) flNV := by
  have hs : (x.isSNan || y.isSNan || (x.isNan || y.isNan)) = (x.isNan || y.isNan) := by
    have hx := @isNan_of_isSNan x
    have hy := @isNan_of_isSNan y
    grind
  cases c <;> simp [fcmpX, fcondOrders, hs]

theorem fclsX_eq (t : FTy) (x : XV) : fclsX t x = 2 ^ classBit t x := by
  cases x with
  | nan sig => cases sig <;> rfl
  | inf neg => cases neg <;> rfl
  | fin neg n d =>
    simp only [fclsX, classBit]
    cases neg <;> split_ifs <;> simp_all

/-- Settles O2: the order of R32, the conditions of Table 4.4 with their NV, and the classes of Table 4.5. -/
theorem floatCompare : Obligations.FloatCompare := by
  refine vResult_of_runs fun ins v f hf hv s => ?_
  cases ins with
  | fmin o t => cases hf; cases hv; exact vRun_congr fun i x l => natR_fminmax ..
  | fmax o t => cases hf; cases hv; exact vRun_congr fun i x l => natR_fminmax ..
  | fcmp o t c =>
    cases hf; cases hv
    exact vRun_congr fun i x l => Prod.ext (congrArg (fun b : Bool => (b.toNat : Int)) (fcmpX_bit ..)) (fcmpX_flags ..)
  | fcls o t => cases hf; cases hv; exact vRun_congr fun i x l => by rw [fclsX_eq]
  | _ => cases hf

/-! ### Conversions (R97 to R101, R109) -/

/-- The exact sum of the two products and the addend of FDOT2 (R99). -/
def dotSum (rd : Bool) (x0 y0 x1 y1 c : XV) : XV × Bool :=
  if (mulX x0 y0).2 then mulX x0 y0
  else if (mulX x1 y1).2 then mulX x1 y1
  else if [x0, y0, x1, y1, c].any XV.isNan then (.nan false, false)
  else if (addX rd (mulX x0 y0).1 (mulX x1 y1).1).2 then addX rd (mulX x0 y0).1 (mulX x1 y1).1
  else addX rd (addX rd (mulX x0 y0).1 (mulX x1 y1).1).1 c

theorem dotSum_of_invalid {rd : Bool} {x0 y0 x1 y1 c : XV} (h : (mulX x0 y0).2 = true ∨ (mulX x1 y1).2 = true) :
    dotSum rd x0 y0 x1 y1 c = (.nan false, true) := by
  unfold dotSum
  by_cases hp : (mulX x0 y0).2 = true
  · rw [if_pos hp, mulX_invalid hp]
  · have hq := h.resolve_left hp
    rw [if_neg hp, if_pos hq, mulX_invalid hq]

theorem dotSum_of_isNan {rd : Bool} {x0 y0 x1 y1 c : XV} (h : ¬ ((mulX x0 y0).2 = true ∨ (mulX x1 y1).2 = true))
    (hn : [x0, y0, x1, y1, c].any XV.isNan = true) : dotSum rd x0 y0 x1 y1 c = (.nan false, false) := by
  obtain ⟨hp, hq⟩ := not_or.1 h
  rw [dotSum, if_neg hp, if_neg hq, if_pos hn]

/-- Without a NaN and an invalid product only the two sums are left, the invalid one first. -/
theorem dotSum_of_sums {rd : Bool} {x0 y0 x1 y1 c : XV} (h : ¬ ((mulX x0 y0).2 = true ∨ (mulX x1 y1).2 = true))
    (hn : ¬ [x0, y0, x1, y1, c].any XV.isNan = true) :
    dotSum rd x0 y0 x1 y1 c =
      if (addX rd (mulX x0 y0).1 (mulX x1 y1).1).2 then (.nan false, true) else addX rd (addX rd (mulX x0 y0).1 (mulX x1 y1).1).1 c := by
  obtain ⟨hp, hq⟩ := not_or.1 h
  rw [dotSum, if_neg hp, if_neg hq, if_neg hn]
  by_cases ha : (addX rd (mulX x0 y0).1 (mulX x1 y1).1).2 = true
  · rw [if_pos ha, if_pos ha, addX_invalid ha]
  · rw [if_neg ha, if_neg ha]

theorem nanWhere_dotSum (rd : Bool) (x0 y0 x1 y1 c : XV) : NanWhere [x0, y0, x1, y1, c] (dotSum rd x0 y0 x1 y1 c) := by
  intro h
  by_cases hi : (mulX x0 y0).2 = true ∨ (mulX x1 y1).2 = true
  · rw [dotSum_of_invalid hi]; rfl
  by_cases hn : [x0, y0, x1, y1, c].any XV.isNan = true
  · rw [dotSum_of_isNan hi hn]; rfl
  have hs := h.resolve_right hn
  rw [dotSum_of_sums hi hn] at hs ⊢
  by_cases ha : (addX rd (mulX x0 y0).1 (mulX x1 y1).1).2 = true
  · rw [if_pos ha]; rfl
  · rw [if_neg ha] at hs ⊢; rw [addX_invalid hs]; rfl

theorem dot2X_eq (rd : Bool) (x0 y0 x1 y1 c : XV) :
    dot2X rd x0 y0 x1 y1 c = ((dotSum rd x0 y0 x1 y1 c).1, exactFlags [x0, y0, x1, y1, c] (dotSum rd x0 y0 x1 y1 c)) := by
  by_cases hi : (mulX x0 y0).2 = true ∨ (mulX x1 y1).2 = true
  · simp [dot2X, dotSum_of_invalid hi, hi, exactFlags, flIf, or_assoc]
  by_cases hn : [x0, y0, x1, y1, c].any XV.isNan = true
  · rw [dotSum_of_isNan hi hn]
    simp_all [dot2X, exactFlags, flIf, or_assoc]
  rw [dotSum_of_sums hi hn]
  split <;> simp_all [dot2X, exactFlags, flIf, or_assoc]

theorem finish_dot2X (t : FTy) (r : RMode) (sat : Bool) (u : Nat) (rd : Bool) (x0 y0 x1 y1 c : XV) :
    natR (finish t r sat u (dot2X rd x0 y0 x1 y1 c)) = roundOnce t r sat u [x0, y0, x1, y1, c] (dotSum rd x0 y0 x1 y1 c) := by
  rw [dot2X_eq, natR_finish (nanWhere_dotSum rd x0 y0 x1 y1 c)]

/-- A value scaled by a power of two is a NaN where it was one (R98). -/
theorem finish_scale2 (t : FTy) (r : RMode) (sat : Bool) (u : Nat) (x : XV) (n : Int) :
    natR (finish t r sat u (x.scale2 n, flIf x.isSNan flNV)) = roundOnce t r sat u [x] (x.scale2 n, false) := by
  have hnan : NanWhere [x] (x.scale2 n, false) := by
    rintro (h | h)
    · cases h
    · cases x with
      | nan sig => rfl
      | inf neg => cases h
      | fin neg a b => cases h
  rw [← natR_finish hnan]
  simp [exactFlags, flIf]

theorem vResult_floatConvert : VResult floatConvert := by
  refine vResult_of_runs fun ins v f hf hv s => ?_
  cases ins with
  | frnd o t r => cases hf; cases hv; rfl
  | fcvt o src dst r sat => cases hf; cases hv; rfl
  | fdot2 o bf r sat =>
    cases hf; cases hv
    refine vRun_congr fun i x l => ?_
    simp only [Nat.mul_zero, Nat.pow_zero, Nat.div_one, Nat.mul_one]
    exact finish_dot2X ..
  | fscl o t r sat => cases hf; cases hv; exact vRun_congr fun i x l => finish_scale2 ..
  | afcp o => cases hf; cases hv; rfl
  | _ => cases hf

theorem vResult_intFloat : VResult intFloat := by
  refine vResult_of_runs fun ins v f hf hv s => ?_
  cases ins with
  | ftoi o src dst r => cases hf; cases hv; rfl
  | itof o src dst r sat => cases hf; cases hv; rfl
  | _ => cases hf

/-- Settles O3: the exact sum of FDOT2 and the scaled value of FSCL are rounded once; the other conversions are the functions of their rules. -/
theorem floatConversion : Obligations.FloatConversion := ⟨vResult_floatConvert, vResult_intFloat⟩

/-! ### Integers (R95, R104 to R108) -/

theorem minV_le_maxV (t : ITy) : t.minV ≤ t.maxV := by cases t <;> decide

/-- Wrapping or saturating is the value modulo 2 to the W, or the nearer bound with OF (R23). -/
theorem fit_eq_narrowed (t : ITy) (sat : Bool) (n : Int) : t.fit sat n = narrowed t sat n := by
  cases sat with
  | false => rfl
  | true =>
    have hb := minV_le_maxV t
    simp only [ITy.fit, narrowed, if_true]
    by_cases hlo : n < t.minV
    · rw [if_pos hlo, min_eq_right (by omega), max_eq_left (by omega)]
      simp [flIf, hlo]
    · by_cases hhi : t.maxV < n
      · rw [if_neg hlo, if_pos hhi, min_eq_left (by omega), max_eq_right hb]
        simp [flIf, hhi]
      · rw [if_neg hlo, if_neg hhi, min_eq_right (by omega), max_eq_right (by omega)]
        simp [flIf, hlo, hhi]

theorem icmpX_eq (c : ICond) (x y : Int) : icmpX c x y = icond c x y := by
  cases c with
  | eq => exact Bool.eq_iff_iff.2 (by simp [icmpX, icond])
  | ne => exact Bool.eq_iff_iff.2 (by simp [icmpX, icond])
  | lt => rfl
  | le => rfl
  | gt => rfl
  | ge => rfl

/-- The carry out of two values below N and a bit (R105). -/
theorem carry_eq {N a b c : Nat} (ha : a < N) (hb : b < N) (hc : c < 2) : (a + b + c) / N = if N ≤ a + b + c then 1 else 0 := by
  split
  · exact Nat.div_eq_of_lt_le (by omega) (by omega)
  · exact Nat.div_eq_of_lt (by omega)

/-- Settles O5: every result is narrowed as R23 has it, the carry is that of R105, and IMIN, IMAX and ICMP follow the order of the integers. -/
theorem integerArithmetic : Obligations.IntegerArithmetic := by
  refine vResult_of_runs fun ins v f hf hv s => ?_
  cases ins with
  | iadd o t sat => cases hf; cases hv; exact vRun_congr fun i x l => fit_eq_narrowed ..
  | isub o t sat => cases hf; cases hv; exact vRun_congr fun i x l => fit_eq_narrowed ..
  | iadc o wide co =>
    cases hf; cases hv
    exact vRun_congr fun i x l => by
      dsimp only
      rw [carry_eq (Nat.mod_lt _ (Nat.two_pow_pos _)) (Nat.mod_lt _ (Nat.two_pow_pos _)) (Nat.mod_lt _ two_pos)]
  | imul o t sat => cases hf; cases hv; exact vRun_congr fun i x l => fit_eq_narrowed ..
  | imulh o t => cases hf; cases hv; rfl
  | imad o t sat => cases hf; cases hv; exact vRun_congr fun i x l => fit_eq_narrowed ..
  | imin o t => cases hf; cases hv; exact vRun_congr fun i x l => by rw [min_def]
  | imax o t => cases hf; cases hv; exact vRun_congr fun i x l => by rw [max_def]
  | iabs o t sat =>
    cases hf; cases hv
    exact vRun_congr fun i x l => by rw [fit_eq_narrowed, Int.natCast_natAbs]
  | icmp o t c => cases hf; cases hv; exact vRun_congr fun i x l => by rw [icmpX_eq]
  | icvt o src dst sat => cases hf; cases hv; exact vRun_congr fun i x l => fit_eq_narrowed ..
  | _ => cases hf

/-! ### Bits (R110 to R113) -/

theorem popCount_eq (n x : Nat) : popCount n x = ((List.range n).map (fun k => x.testBit k)).count true := by
  rw [popCount, List.count_eq_countP, List.countP_map, ← List.countP_eq_length_filter]
  congr 1
  funext k
  simp

/-- A shift count of W bits, taken modulo W, is the operand modulo W (R110). -/
theorem shiftCount_eq (t : ITy) (y : Nat) : y % 2 ^ ITy.width t % ITy.width t = y % ITy.width t :=
  Nat.mod_mod_of_dvd y (by cases t <;> decide)

theorem sext_mod (n x : Nat) : sext n (x % 2 ^ n) = sext n x := by
  simp only [sext, Nat.mod_mod]

/-- A byte of the eight for a selector below 8, else its sign spread (R113). -/
theorem prmbByte_eq (xy k : Nat) : prmbByte xy k =
    if k < 8 then xy / 2 ^ (8 * (k % 8)) % 256 else if 128 ≤ xy / 2 ^ (8 * (k % 8)) % 256 then 255 else 0 := by
  by_cases h : k < 8
  · simp [prmbByte, h, Nat.not_le.2 h]
  · simp [prmbByte, h, Nat.not_lt.1 h]

theorem foldl_four (f : Nat → Nat) : (List.range 4).foldl (fun a k => a + f k) 0 = f 0 + f 1 + f 2 + f 3 := by
  simp [List.range_succ]

/-- The four bytes of PRMB, each at its place (R113). -/
theorem foldl_bytes (f : Nat → Nat) :
    (List.range 4).foldl (fun a k => a + f k * 2 ^ (8 * k)) 0 = f 0 + 2 ^ 8 * f 1 + 2 ^ 16 * f 2 + 2 ^ 24 * f 3 := by
  simp only [Nat.mul_comm (f _) (2 ^ _)]
  rw [foldl_four (fun k => 2 ^ (8 * k) * f k), Nat.mul_zero, Nat.pow_zero, Nat.one_mul]

/-- Settles O6: shift counts are taken modulo W, POPC counts the ones, and PRMB puts four bytes in their places; the rest is bit for bit its rule. -/
theorem bitOperations : Obligations.BitOperations := by
  refine vResult_of_runs fun ins v f hf hv s => ?_
  cases ins with
  | and o t => cases hf; cases hv; rfl
  | or o t => cases hf; cases hv; rfl
  | xor o t => cases hf; cases hv; rfl
  | andn o t => cases hf; cases hv; rfl
  | shl o t => cases hf; cases hv; exact vRun_congr fun i x l => by dsimp only; rw [shiftCount_eq]
  | shr o t => cases hf; cases hv; exact vRun_congr fun i x l => by dsimp only; rw [shiftCount_eq]
  | sar o t => cases hf; cases hv; exact vRun_congr fun i x l => by dsimp only; rw [shiftCount_eq, sext_mod]
  | rotl o t => cases hf; cases hv; exact vRun_congr fun i x l => by dsimp only; rw [shiftCount_eq]
  | popc o t => cases hf; cases hv; exact vRun_congr fun i x l => by dsimp only; rw [popCount_eq]
  | clz o t => cases hf; cases hv; rfl
  | brev o t => cases hf; cases hv; rfl
  | bfe o t => cases hf; cases hv; rfl
  | bfi o wide => cases hf; cases hv; rfl
  | prmb o =>
    cases hf; cases hv
    exact vRun_congr fun i x l => by
      dsimp only
      rw [foldl_bytes]
      simp only [prmbByte_eq]
  | _ => cases hf

/-! ### Cross-lane moves (R116, R117) -/

/-- The run of a cross-lane operation: each active lane gets a value made from the state, whatever its own operands. -/
def crossRun (s : State) (v : VInfo) (f : Issue → Nat → Int × AFlags) : Out :=
  s.slotOp (fun _ => none) (fun i => s.vPut i v none false (runLanes (i.act v.p) false v.dwide (s.vOperand i v) (fun _ l => f i l)))

theorem crossRun_does {s : State} {i : Issue} (hx : Executing s i) {v : VInfo} (hv : v.isScalar = false) (f : Issue → Nat → Int × AFlags) :
    ∃ t, crossRun s v f = .next t ∧ VDoes s t i v none false (f i) :=
  ⟨_, slotOp_runs hx.1 rfl, vPut_vector_does hx hv (fun _ l => f i l)⟩

/-- Each of SHUF, LBRD, ROWB, COLB and TRNS is a cross-lane operation and takes the element of the lane it chooses. -/
theorem laneMove_runs {ins : Instr} {v : VInfo} (hm : laneMove ins = true) (hv : ins.vinfo = some v) :
    v.xl = true ∧ ∀ s, exec ins s = crossRun s v (fun i l => ((laneRd s i v 0 0 (sourceLane s i v l ins) : Nat), 0#6)) := by
  cases ins with
  | shuf o wide => cases hv; exact ⟨rfl, fun _ => rfl⟩
  | lbrd o wide => cases hv; exact ⟨rfl, fun _ => rfl⟩
  | rowb o wide => cases hv; exact ⟨rfl, fun _ => rfl⟩
  | colb o wide => cases hv; exact ⟨rfl, fun _ => rfl⟩
  | trns o wide => cases hv; exact ⟨rfl, fun _ => rfl⟩
  | _ => cases hm

/-- Settles O8: a well-formed cross-lane move has no scalar form, and its run takes the element of the lane it chooses. -/
theorem laneMoves : Obligations.LaneMoves := by
  intro ins v hm hwf hv s i hx
  obtain ⟨hxl, hrun⟩ := laneMove_runs hm hv
  rw [hrun s]
  exact crossRun_does hx (isScalar_of_wf_crossLane hwf hv hxl) _

end Sys2Proof.Proofs

/-! Proofs of the statements about the C slot (chapter 5). A C-slot operation without trap is its effect on the state; what an update of the wave or
of the split of the bundle leaves standing is said once, and each operation is one such update. -/

namespace Sys2Proof.Proofs
open Sys2Proof.Machine Sys2Proof.Spec

/-! ### A C-slot operation is its effect (R126) -/

theorem cOp_runs {s : State} {i : Issue} (hx : Executing s i) (eff : Issue → State) : s.cOp eff = .next (eff i) :=
  slotOp_runs hx.1 rfl

theorem cPred_runs {s : State} {i : Issue} (hx : Executing s i) (p : Pred) (eff : Issue → State) :
    s.cPred p eff = .next (if i.act p = 0#64 then s else eff i) :=
  cOp_runs hx _

/-! ### An update of the wave or of the split of the bundle -/

theorem onlyCores_refl (s : State) : OnlyCores s s := (QueueStep.refl s 0).only

theorem splitOnly_refl (s : State) (i : Issue) : SplitOnly s s i :=
  ⟨onlyCores_refl s, fun _ _ => rfl, fun _ _ => rfl, fun _ _ => rfl, rfl, rfl⟩

theorem onlyCores_updIss (s : State) (i : Issue) (f : Wave → Wave) : OnlyCores s (s.updIss i f) := onlyCores_refl s

theorem otherCores_updIss (s : State) (i : Issue) (f : Wave → Wave) : OtherCores s (s.updIss i f) i.core :=
  fun _ hc => by simp [State.updIss, State.updWave, hc]

theorem otherWaves_updIss (s : State) (i : Issue) (f : Wave → Wave) : OtherWaves s (s.updIss i f) i.core i.wave :=
  fun _ hw => State.wave?_updWave_other f (by simp [hw])

theorem waveAt_updIss {s : State} {i : Issue} (hx : Executing s i) (f : Wave → Wave) : (s.updIss i f).waveAt i = f (s.waveAt i) := by
  obtain ⟨w, _, hw, _⟩ := hx.wave
  exact (State.wave_updWave_same f hw).trans (congrArg f (State.wave_of hw).symm)

theorem splitAt_updIssSplit {s : State} {i : Issue} (hx : Executing s i) (f : Split → Split) :
    (s.updIssSplit i f).splitAt i = f (s.splitAt i) := by
  obtain ⟨w, sp, hw, hs⟩ := hx.wave
  rw [(updIssSplit_step hw hs f).2, splitAt_of hw hs]

theorem splitOnly_updIssSplit {s : State} {i : Issue} (hx : Executing s i) (f : Split → Split) : SplitOnly s (s.updIssSplit i f) i := by
  have hw : (s.updIssSplit i f).waveAt i = (s.waveAt i).updSplit i.split f := waveAt_updIss hx _
  refine ⟨onlyCores_updIss .., otherCores_updIss _ _ _, otherWaves_updIss _ _ _, fun n hn => ?_, ?_, ?_⟩
  · rw [hw, Wave.get?_updSplit, if_neg hn]
  · simp [State.updIssSplit, State.updIss, State.core_updWave]
  · rw [hw]; rfl

/-- A predicated operation that updates the wave of its bundle: it does so where some lane is active, and no other wave differs. -/
theorem cPred_updIss_does {s : State} {i : Issue} (hx : Executing s i) (p : Pred) (f : Issue → Wave → Wave) :
    ∃ t, s.cPred p (fun j => s.updIss j (f j)) = .next t ∧ OnlyCores s t ∧ OtherCores s t i.core ∧ OtherWaves s t i.core i.wave ∧
      t.waveAt i = if i.act p = 0#64 then s.waveAt i else f i (s.waveAt i) := by
  refine ⟨_, cPred_runs hx p _, ?_⟩
  split
  · exact ⟨onlyCores_refl s, fun _ _ => rfl, fun _ _ => rfl, rfl⟩
  · exact ⟨onlyCores_updIss .., otherCores_updIss _ _ _, otherWaves_updIss _ _ _, waveAt_updIss hx _⟩

/-! ### The random index (R138) -/

@[simp] theorem setRng_rngidx (w : Wave) (x : BitVec 48) : (w.setRng x).rngidx = x := rfl

/-- Beside the random index, only its copy in the trap context may differ (R189). -/
theorem setRng_rest (w : Wave) (x : BitVec 48) :
    ({ w.setRng x with rngidx := 0#48, trap := none } : Wave) = { w with rngidx := 0#48, trap := none } := rfl

/-! ### The operations -/

theorem exec_idleOp {ins : Instr} (h : idleOp ins = true) {s : State} {i : Issue} (hx : Executing s i) : exec ins s = .next s := by
  cases ins with
  | nop => exact cOp_runs hx _
  | lmark n1 => exact cOp_runs hx _
  | wflg wait => exact cOp_runs hx _
  | _ => cases h

/-- CLAUSE (R75, R76). -/
theorem exec_clause (wait : BitVec 12) (fa fb : BitVec 4) {s : State} {i : Issue} (hx : Executing s i) :
    ∃ t, exec (.clause wait fa fb) s = .next t ∧ SplitOnly s t i ∧
      t.splitAt i = { s.splitAt i with fa := fa.toNat, fb := fb.toNat } :=
  ⟨_, cOp_runs hx _, splitOnly_updIssSplit hx _, splitAt_updIssSplit hx _⟩

/-- RNGIX (R138). -/
theorem exec_rngix (p : Pred) (n : BitVec 6) {s : State} {i : Issue} (hx : Executing s i) :
    ∃ t, exec (.rngix p n) s = .next t ∧ OnlyCores s t ∧ OtherCores s t i.core ∧ OtherWaves s t i.core i.wave ∧
      (t.waveAt i).rngidx = (if i.act p = 0#64 then (s.waveAt i).rngidx else (readS (s.core i.core) i.pre n.toNat).truncate 48) ∧
      { t.waveAt i with rngidx := 0#48, trap := none } = { s.waveAt i with rngidx := 0#48, trap := none } := by
  obtain ⟨t, ht, hcores, hother, hwaves, hw⟩ := cPred_updIss_does hx p (fun j w => w.setRng ((s.cRead j n).truncate 48))
  refine ⟨t, ht, hcores, hother, hwaves, ?_⟩
  rw [hw]
  split
  · exact ⟨rfl, rfl⟩
  · exact ⟨setRng_rngidx .., setRng_rest ..⟩

/-- YIELD (R141): under DET the state stands, else the split alone is marked. -/
theorem exec_yield {s : State} {i : Issue} (hx : Executing s i) :
    ∃ t, exec .yield s = .next t ∧ SplitOnly s t i ∧ { t.splitAt i with yield := none } = { s.splitAt i with yield := none } ∧
      (s.isDet i.core = true → t = s) ∧ (s.isDet i.core = false → ∃ y, (t.splitAt i).yield = some y ∧ y.left = 64) := by
  refine ⟨_, cOp_runs hx _, ?_⟩
  cases hd : s.isDet i.core with
  | true =>
    rw [if_pos rfl]
    exact ⟨splitOnly_refl s i, rfl, fun _ => rfl, nofun⟩
  | false =>
    rw [if_neg Bool.false_ne_true]
    refine ⟨splitOnly_updIssSplit hx _, ?_, nofun, fun _ => ?_⟩
    · rw [splitAt_updIssSplit hx]
    · rw [splitAt_updIssSplit hx]
      exact ⟨_, rfl, rfl⟩

/-- Settles O32: each of these operations is one update of the wave or of the split of its bundle, or none. -/
theorem clausesAndShape : Obligations.ClausesAndShape :=
  ⟨fun _ _ _ hx h => exec_idleOp h hx,
   fun wait fa fb _ _ hx => exec_clause wait fa fb hx,
   fun p r _ _ hx => cPred_updIss_does hx p (fun _ w => { w with rowlog := r }),
   fun p n _ _ hx => exec_rngix p n hx,
   fun _ _ hx => exec_yield hx⟩

end Sys2Proof.Proofs
